-- ==== Sys2Proof/Word.lean ====
section
/-! DEFINITION. The word types of the core and their names (R10, R12, R58). -/

namespace Sys2Proof

/-- A `u8` of R13: a general register, a timer, a byte of memory, the field `nn`. -/
abbrev Byte := BitVec 8

/-- A `u16` of R13: the index register, the program counter, a stack entry, an instruction word. -/
abbrev Word := BitVec 16

/-- The field `nnn` of an instruction word: 12 bits (R58). -/
abbrev Addr12 := BitVec 12

/-- The field `n` of an instruction word: 4 bits (R58). -/
abbrev Nibble := BitVec 4

/-- A register index, the fields `x` and `y`: 4 bits, each value names one of V0..VF (R61). -/
abbrev RegIx := BitVec 4

/-- A key index of the 16-key pad, 0..15 (R29, R132). -/
abbrev KeyIx := BitVec 4

/-- The register index of VF (R19). -/
abbrev vF : RegIx := 15#4

end Sys2Proof
end

