-- ==== Sys2Proof/Syntax.lean ====
section
/-! DEFINITION. The instructions: one constructor for each of the 34 rows of spec/opcode_table.json (R2, R62, R74), with
the operand fields of its format (R59, R60, R61). -/

namespace Sys2Proof

/-- An instruction of base CHIP-8. Every operand has exactly the width of its field, so each value of each operand is
an instruction: the fields of R58 have no reserved value. -/
inductive Instr where
  /-- 00E0 `CLS` (R107) -/
  | cls
  /-- 00EE `RET` (R76) -/
  | ret
  /-- 1nnn `JP nnn` (R77) -/
  | jp (nnn : Addr12)
  /-- 2nnn `CALL nnn` (R78) -/
  | call (nnn : Addr12)
  /-- 3xnn `SE Vx, nn` (R79) -/
  | seImm (x : RegIx) (nn : Byte)
  /-- 4xnn `SNE Vx, nn` (R80) -/
  | sneImm (x : RegIx) (nn : Byte)
  /-- 5xy0 `SE Vx, Vy` (R81) -/
  | seReg (x y : RegIx)
  /-- 6xnn `LD Vx, nn` (R86) -/
  | ldImm (x : RegIx) (nn : Byte)
  /-- 7xnn `ADD Vx, nn` (R87) -/
  | addImm (x : RegIx) (nn : Byte)
  /-- 8xy0 `LD Vx, Vy` (R88) -/
  | ldReg (x y : RegIx)
  /-- 8xy1 `OR Vx, Vy` (R89) -/
  | orReg (x y : RegIx)
  /-- 8xy2 `AND Vx, Vy` (R90) -/
  | andReg (x y : RegIx)
  /-- 8xy3 `XOR Vx, Vy` (R91) -/
  | xorReg (x y : RegIx)
  /-- 8xy4 `ADD Vx, Vy` (R92) -/
  | addReg (x y : RegIx)
  /-- 8xy5 `SUB Vx, Vy` (R93) -/
  | subReg (x y : RegIx)
  /-- 8xy6 `SHR Vx, Vy`; y is encoded and ignored (R94) -/
  | shrReg (x y : RegIx)
  /-- 8xy7 `SUBN Vx, Vy` (R95) -/
  | subnReg (x y : RegIx)
  /-- 8xyE `SHL Vx, Vy`; y is encoded and ignored (R96) -/
  | shlReg (x y : RegIx)
  /-- 9xy0 `SNE Vx, Vy` (R82) -/
  | sneReg (x y : RegIx)
  /-- Annn `LD I, nnn` (R99) -/
  | ldI (nnn : Addr12)
  /-- Bnnn `JP V0, nnn` (R83) -/
  | jpV0 (nnn : Addr12)
  /-- Cxnn `RND Vx, nn` (R97) -/
  | rnd (x : RegIx) (nn : Byte)
  /-- Dxyn `DRW Vx, Vy, n` (R108) -/
  | drw (x y : RegIx) (n : Nibble)
  /-- Ex9E `SKP Vx` (R110) -/
  | skp (x : RegIx)
  /-- ExA1 `SKNP Vx` (R111) -/
  | sknp (x : RegIx)
  /-- Fx07 `LD Vx, DT` (R112) -/
  | ldVxDt (x : RegIx)
  /-- Fx0A `LD Vx, K` (R113) -/
  | ldVxK (x : RegIx)
  /-- Fx15 `LD DT, Vx` (R114) -/
  | ldDtVx (x : RegIx)
  /-- Fx18 `LD ST, Vx` (R115) -/
  | ldStVx (x : RegIx)
  /-- Fx1E `ADD I, Vx` (R100) -/
  | addI (x : RegIx)
  /-- Fx29 `LD F, Vx` (R101) -/
  | ldF (x : RegIx)
  /-- Fx33 `LD B, Vx` (R102) -/
  | ldB (x : RegIx)
  /-- Fx55 `LD [I], Vx` (R103) -/
  | storeRegs (x : RegIx)
  /-- Fx65 `LD Vx, [I]` (R104) -/
  | loadRegs (x : RegIx)
  deriving DecidableEq, Repr

end Sys2Proof
end

