-- ==== Sys2Proof/WellFormed.lean ====
section
/-! DEFINITION. Which instruction words are well formed: the checks of R62 and R68, one for each family that fixes more
than its high nibble, and beside them the match and mask rows of spec/opcode_table.json (R65).
A term of `Instr` cannot be ill formed, since each operand has exactly the width of its field (R58, R60, R61); what can
be ill formed on this hardware is an instruction WORD, and these are the checks of it. -/

namespace Sys2Proof

/-- The bits `bits` of a word have the value `value`. -/
def bitsAre (w bits value : Word) : Bool := w &&& bits == value

/-- R62, family 0: the whole word is 00E0 or 00EE. -/
def familyZeroOk (w : Word) : Bool :=
  !bitsAre w 0xF000#16 0x0000#16 || w == 0x00E0#16 || w == 0x00EE#16

/-- R62, family 5: n = 0. -/
def familyFiveOk (w : Word) : Bool := !bitsAre w 0xF000#16 0x5000#16 || bitsAre w 0x000F#16 0x0000#16

/-- The low nibbles of family 8 (R62). -/
def familyEightNibbles : List Word := [0, 1, 2, 3, 4, 5, 6, 7, 0xE]

/-- R62, family 8: n is 0 to 7 or E. -/
def familyEightOk (w : Word) : Bool :=
  !bitsAre w 0xF000#16 0x8000#16 || familyEightNibbles.any (bitsAre w 0x000F#16)

/-- R62, family 9: n = 0. -/
def familyNineOk (w : Word) : Bool := !bitsAre w 0xF000#16 0x9000#16 || bitsAre w 0x000F#16 0x0000#16

/-- R62, family E: nn is 9E or A1. -/
def familyEOk (w : Word) : Bool :=
  !bitsAre w 0xF000#16 0xE000#16 || [0x9E, 0xA1].any (bitsAre w 0x00FF#16)

/-- The low bytes of family F (R62). -/
def familyFBytes : List Word := [0x07, 0x0A, 0x15, 0x18, 0x1E, 0x29, 0x33, 0x55, 0x65]

/-- R62, family F: nn is one of the nine listed bytes. -/
def familyFOk (w : Word) : Bool :=
  !bitsAre w 0xF000#16 0xF000#16 || familyFBytes.any (bitsAre w 0x00FF#16)

/-- A word of the opcode map (R62): it passes every family's check. The other words are the illegal ones of R68. -/
def wellFormed (w : Word) : Bool :=
  familyZeroOk w && familyFiveOk w && familyEightOk w && familyNineOk w && familyEOk w && familyFOk w

/-- A row of spec/opcode_table.json: the bits an instruction fixes (`mask`) and their values (`pattern`, the table's
`match`). -/
structure OpcodeRow where
  pattern : Word
  mask : Word
  deriving DecidableEq, Repr

/-- `w & mask == match` (R65). -/
def OpcodeRow.accepts (r : OpcodeRow) (w : Word) : Bool := w &&& r.mask == r.pattern

/-- The rows of spec/opcode_table.json, in its order. -/
def opcodeTable : List OpcodeRow :=
  [⟨0x00E0#16, 0xFFFF#16⟩, ⟨0x00EE#16, 0xFFFF#16⟩, ⟨0x1000#16, 0xF000#16⟩, ⟨0x2000#16, 0xF000#16⟩,
   ⟨0x3000#16, 0xF000#16⟩, ⟨0x4000#16, 0xF000#16⟩, ⟨0x5000#16, 0xF00F#16⟩, ⟨0x6000#16, 0xF000#16⟩,
   ⟨0x7000#16, 0xF000#16⟩, ⟨0x8000#16, 0xF00F#16⟩, ⟨0x8001#16, 0xF00F#16⟩, ⟨0x8002#16, 0xF00F#16⟩,
   ⟨0x8003#16, 0xF00F#16⟩, ⟨0x8004#16, 0xF00F#16⟩, ⟨0x8005#16, 0xF00F#16⟩, ⟨0x8006#16, 0xF00F#16⟩,
   ⟨0x8007#16, 0xF00F#16⟩, ⟨0x800E#16, 0xF00F#16⟩] ++
  [⟨0x9000#16, 0xF00F#16⟩, ⟨0xA000#16, 0xF000#16⟩, ⟨0xB000#16, 0xF000#16⟩, ⟨0xC000#16, 0xF000#16⟩,
   ⟨0xD000#16, 0xF000#16⟩, ⟨0xE09E#16, 0xF0FF#16⟩, ⟨0xE0A1#16, 0xF0FF#16⟩, ⟨0xF007#16, 0xF0FF#16⟩,
   ⟨0xF00A#16, 0xF0FF#16⟩, ⟨0xF015#16, 0xF0FF#16⟩, ⟨0xF018#16, 0xF0FF#16⟩, ⟨0xF01E#16, 0xF0FF#16⟩,
   ⟨0xF029#16, 0xF0FF#16⟩, ⟨0xF033#16, 0xF0FF#16⟩, ⟨0xF055#16, 0xF0FF#16⟩, ⟨0xF065#16, 0xF0FF#16⟩]

/-- The row of `opcodeTable` that an instruction comes from. -/
def Instr.rowNumber : Instr → Nat
  | .cls => 0
  | .ret => 1
  | .jp _ => 2
  | .call _ => 3
  | .seImm _ _ => 4
  | .sneImm _ _ => 5
  | .seReg _ _ => 6
  | .ldImm _ _ => 7
  | .addImm _ _ => 8
  | .ldReg _ _ => 9
  | .orReg _ _ => 10
  | .andReg _ _ => 11
  | .xorReg _ _ => 12
  | .addReg _ _ => 13
  | .subReg _ _ => 14
  | .shrReg _ _ => 15
  | .subnReg _ _ => 16
  | .shlReg _ _ => 17
  | .sneReg _ _ => 18
  | .ldI _ => 19
  | .jpV0 _ => 20
  | .rnd _ _ => 21
  | .drw _ _ _ => 22
  | .skp _ => 23
  | .sknp _ => 24
  | .ldVxDt _ => 25
  | .ldVxK _ => 26
  | .ldDtVx _ => 27
  | .ldStVx _ => 28
  | .addI _ => 29
  | .ldF _ => 30
  | .ldB _ => 31
  | .storeRegs _ => 32
  | .loadRegs _ => 33

end Sys2Proof
end

