-- ==== Sys2Proof/Decode.lean ====
section
/-! DEFINITION. The decoder (R57 to R65), total on any word and on any bytes and rejecting by name, and after it the
encoder, from the same formats (R59). -/

namespace Sys2Proof

/-- The field `op` of R58: the family, bits 15..12. -/
def opField (w : Word) : Nibble := w.extractLsb' 12 4

/-- The field `x` of R58: bits 11..8. -/
def xField (w : Word) : RegIx := w.extractLsb' 8 4

/-- The field `y` of R58: bits 7..4. -/
def yField (w : Word) : RegIx := w.extractLsb' 4 4

/-- The field `n` of R58: bits 3..0. -/
def nField (w : Word) : Nibble := w.extractLsb' 0 4

/-- The field `nn` of R58: bits 7..0. -/
def nnField (w : Word) : Byte := w.extractLsb' 0 8

/-- The field `nnn` of R58: bits 11..0. -/
def nnnField (w : Word) : Addr12 := w.extractLsb' 0 12

/-- Why the decoder answers no instruction. -/
inductive DecodeReject where
  /-- The word matches no listed case: `DecodeError(w)` (R65, R68). Raised by `decode`. Safe: the step faults. -/
  | illegal (w : Word)
  /-- Fewer than two bytes are left (R57). Raised by `decodeBytes` only, never in a step. Safe. -/
  | truncated
  deriving DecidableEq, Repr

/-- Family 0 (R62): selected by the whole word. -/
def decodeFamily0 (w : Word) : Except DecodeReject Instr :=
  if w = 0x00E0#16 then .ok .cls
  else if w = 0x00EE#16 then .ok .ret
  else .error (.illegal w)

/-- Family 8 (R62): selected by n. -/
def decodeFamily8 (w : Word) : Except DecodeReject Instr :=
  match nField w with
  | 0x0#4 => .ok (.ldReg (xField w) (yField w))
  | 0x1#4 => .ok (.orReg (xField w) (yField w))
  | 0x2#4 => .ok (.andReg (xField w) (yField w))
  | 0x3#4 => .ok (.xorReg (xField w) (yField w))
  | 0x4#4 => .ok (.addReg (xField w) (yField w))
  | 0x5#4 => .ok (.subReg (xField w) (yField w))
  | 0x6#4 => .ok (.shrReg (xField w) (yField w))
  | 0x7#4 => .ok (.subnReg (xField w) (yField w))
  | 0xE#4 => .ok (.shlReg (xField w) (yField w))
  | _ => .error (.illegal w)

/-- Family E (R62): selected by nn. -/
def decodeFamilyE (w : Word) : Except DecodeReject Instr :=
  match nnField w with
  | 0x9E#8 => .ok (.skp (xField w))
  | 0xA1#8 => .ok (.sknp (xField w))
  | _ => .error (.illegal w)

/-- Family F (R62): selected by nn. -/
def decodeFamilyF (w : Word) : Except DecodeReject Instr :=
  match nnField w with
  | 0x07#8 => .ok (.ldVxDt (xField w))
  | 0x0A#8 => .ok (.ldVxK (xField w))
  | 0x15#8 => .ok (.ldDtVx (xField w))
  | 0x18#8 => .ok (.ldStVx (xField w))
  | 0x1E#8 => .ok (.addI (xField w))
  | 0x29#8 => .ok (.ldF (xField w))
  | 0x33#8 => .ok (.ldB (xField w))
  | 0x55#8 => .ok (.storeRegs (xField w))
  | 0x65#8 => .ok (.loadRegs (xField w))
  | _ => .error (.illegal w)

/-- `Decode(w)` of R65, by the opcode map of R62. -/
def decode (w : Word) : Except DecodeReject Instr :=
  match opField w with
  | 0x0#4 => decodeFamily0 w
  | 0x1#4 => .ok (.jp (nnnField w))
  | 0x2#4 => .ok (.call (nnnField w))
  | 0x3#4 => .ok (.seImm (xField w) (nnField w))
  | 0x4#4 => .ok (.sneImm (xField w) (nnField w))
  | 0x5#4 => if nField w = 0x0#4 then .ok (.seReg (xField w) (yField w)) else .error (.illegal w)
  | 0x6#4 => .ok (.ldImm (xField w) (nnField w))
  | 0x7#4 => .ok (.addImm (xField w) (nnField w))
  | 0x8#4 => decodeFamily8 w
  | 0x9#4 => if nField w = 0x0#4 then .ok (.sneReg (xField w) (yField w)) else .error (.illegal w)
  | 0xA#4 => .ok (.ldI (nnnField w))
  | 0xB#4 => .ok (.jpV0 (nnnField w))
  | 0xC#4 => .ok (.rnd (xField w) (nnField w))
  | 0xD#4 => .ok (.drw (xField w) (yField w) (nField w))
  | 0xE#4 => decodeFamilyE w
  | _ => decodeFamilyF w

/-- The word of two bytes, the first one high (R46, R57). -/
def wordOfBytes (hi lo : Byte) : Word := hi ++ lo

/-- The instruction at the head of a list of bytes, and the bytes after it. -/
def decodeBytes : List Byte → Except DecodeReject (Instr × List Byte)
  | hi :: lo :: rest => (decode (wordOfBytes hi lo)).map (fun i => (i, rest))
  | _ => .error .truncated

/-- The bytes of a word as the hardware stores it, lowest address first (R46). -/
def bytesOfWord (w : Word) : List Byte := [w.extractLsb' 8 8, w.extractLsb' 0 8]

/-- The instruction word whose low `nbits` bits are those of `w`, in the numbering of spec/opcode_table.json, and whose
other bits are 0. -/
def tableWord (nbits w : Nat) : Word := BitVec.ofNat 16 (w % 2 ^ nbits)

/-- What the decoder reads from the bytes of `tableWord nbits w`. -/
def decodeTableWord (nbits w : Nat) : Option Instr :=
  match decodeBytes (bytesOfWord (tableWord nbits w)) with
  | .ok (i, _) => some i
  | .error _ => none

/-- Format A of R59: `oooo aaaa aaaa aaaa`. -/
def formatA (op : Nibble) (nnn : Addr12) : Word := op ++ nnn

/-- Format XK of R59: `oooo xxxx kkkk kkkk`; format X is the same with a fixed low byte. -/
def formatXK (op : Nibble) (x : RegIx) (nn : Byte) : Word := op ++ (x ++ nn)

/-- Format XYN of R59: `oooo xxxx yyyy nnnn`; format XY is the same with a fixed low nibble. -/
def formatXYN (op : Nibble) (x y : RegIx) (n : Nibble) : Word := op ++ (x ++ (y ++ n))

/-- The word of an instruction (R59, R62). -/
def encode : Instr → Word
  | .cls => 0x00E0#16
  | .ret => 0x00EE#16
  | .jp nnn => formatA 0x1#4 nnn
  | .call nnn => formatA 0x2#4 nnn
  | .seImm x nn => formatXK 0x3#4 x nn
  | .sneImm x nn => formatXK 0x4#4 x nn
  | .seReg x y => formatXYN 0x5#4 x y 0x0#4
  | .ldImm x nn => formatXK 0x6#4 x nn
  | .addImm x nn => formatXK 0x7#4 x nn
  | .ldReg x y => formatXYN 0x8#4 x y 0x0#4
  | .orReg x y => formatXYN 0x8#4 x y 0x1#4
  | .andReg x y => formatXYN 0x8#4 x y 0x2#4
  | .xorReg x y => formatXYN 0x8#4 x y 0x3#4
  | .addReg x y => formatXYN 0x8#4 x y 0x4#4
  | .subReg x y => formatXYN 0x8#4 x y 0x5#4
  | .shrReg x y => formatXYN 0x8#4 x y 0x6#4
  | .subnReg x y => formatXYN 0x8#4 x y 0x7#4
  | .shlReg x y => formatXYN 0x8#4 x y 0xE#4
  | .sneReg x y => formatXYN 0x9#4 x y 0x0#4
  | .ldI nnn => formatA 0xA#4 nnn
  | .jpV0 nnn => formatA 0xB#4 nnn
  | .rnd x nn => formatXK 0xC#4 x nn
  | .drw x y n => formatXYN 0xD#4 x y n
  | .skp x => formatXK 0xE#4 x 0x9E#8
  | .sknp x => formatXK 0xE#4 x 0xA1#8
  | .ldVxDt x => formatXK 0xF#4 x 0x07#8
  | .ldVxK x => formatXK 0xF#4 x 0x0A#8
  | .ldDtVx x => formatXK 0xF#4 x 0x15#8
  | .ldStVx x => formatXK 0xF#4 x 0x18#8
  | .addI x => formatXK 0xF#4 x 0x1E#8
  | .ldF x => formatXK 0xF#4 x 0x29#8
  | .ldB x => formatXK 0xF#4 x 0x33#8
  | .storeRegs x => formatXK 0xF#4 x 0x55#8
  | .loadRegs x => formatXK 0xF#4 x 0x65#8

/-- The word of an instruction passes the checks of WellFormed.lean. -/
abbrev Instr.WellFormed (i : Instr) : Prop := wellFormed (encode i) = true

end Sys2Proof
end

