-- ==== Sys2Proof/Config.lean ====
section
/-! DEFINITION. What the spec leaves to the implementation: the named parameters of R11, and the free value of Cxnn. -/

namespace Sys2Proof

/-- `VF_WRITE_ORDER` (R11, R85): which of the two writes of 8xy4, 8xy5, 8xy6, 8xy7 and 8xyE comes first. -/
inductive VfWriteOrder where
  | flagFirst
  | flagLast
  deriving DecidableEq, Repr

/-- `DRAW_EDGE` (R11, R106): what Dxyn does with a set sprite bit that falls off the screen. -/
inductive DrawEdge where
  | clip
  | fault
  deriving DecidableEq, Repr

/-- `DELAY_AT_ZERO` (R11, R126): what the Tick that counts DT down to zero leaves in it. -/
inductive DelayAtZero where
  | hold
  | reload60
  deriving DecidableEq, Repr

/-- The number of font bytes, at 0x000..0x04F (R10, R41). -/
abbrev fontSize : Nat := 80

/-- The implementation parameters of R11 that have a value. DESIGN CHOICE (log entry 1): they are plain data in the
state, which no operation changes, so that a statement about every state holds for every value of every parameter. -/
structure Params where
  vfWriteOrder : VfWriteOrder
  drawEdge : DrawEdge
  delayAtZero : DelayAtZero
  font : Vector Byte fontSize
  deriving DecidableEq, Repr

/-- The default `FONT`, row by row the table of R144. PRESUMED (log entry 11): the spec takes the bytes from general
knowledge; unsafe for a statement that rests on one of them. -/
def Params.defaultFont : Vector Byte fontSize := #v[
  0xF0, 0x90, 0x90, 0x90, 0xF0,
  0x20, 0x60, 0x20, 0x20, 0x70,
  0xF0, 0x10, 0xF0, 0x80, 0xF0,
  0xF0, 0x10, 0xF0, 0x10, 0xF0,
  0x90, 0x90, 0xF0, 0x10, 0x10,
  0xF0, 0x80, 0xF0, 0x10, 0xF0,
  0xF0, 0x80, 0xF0, 0x90, 0xF0,
  0xF0, 0x10, 0x20, 0x40, 0x40,
  0xF0, 0x90, 0xF0, 0x90, 0xF0,
  0xF0, 0x90, 0xF0, 0x10, 0xF0,
  0xF0, 0x90, 0xF0, 0x90, 0x90,
  0xE0, 0x90, 0xE0, 0x90, 0xE0,
  0xF0, 0x80, 0x80, 0x80, 0xF0,
  0xE0, 0x90, 0x90, 0x90, 0xE0,
  0xF0, 0x80, 0xF0, 0x80, 0xF0,
  0xF0, 0x80, 0xF0, 0x80, 0x80]

/-- The defaults of R11. -/
def Params.default : Params where
  vfWriteOrder := .flagFirst
  drawEdge := .clip
  delayAtZero := .hold
  font := Params.defaultFont

/-- FREE VALUE (log entry 2): the random byte of draw number `k` (R97, D16). The spec gives no generator, seed or
distribution, so it has no body: nothing about it can be proved, and a statement holds for every sequence of draws. -/
opaque Config.randomByte : Nat → Byte

end Sys2Proof
end

