-- ==== Sys2Proof/Machine/State.lean ====
section
/-! DEFINITION. The state record (R17 to R39), the fault kinds (R116), the status (R32), and the state after reset (R39,
R143). Plain data. -/

namespace Sys2Proof.Machine

/-- The fault kinds of R116, each with the info it records. A fault is a state change, not the end of the model: it sets
`status` to `Faulted` and the step answers that next state (R117, log entry 3), so no step ends in `Outcome.fault`.
Each is safe: where the hardware would go on, the model has an absorbing fault state. -/
inductive Fault where
  /-- Code 1, raised by the decode of an illegal word `w` (R65, R68). Safe. -/
  | decodeError (w : Word)
  /-- Code 2, raised by 2nnn with sp = 16 (R78). Safe. -/
  | stackOverflow
  /-- Code 3, raised by 00EE with sp = 0 (R76). Safe. -/
  | stackUnderflow
  /-- Code 4, raised by a fetch with pc + 1 > 0xFFF and by Dxyn, Fx33, Fx55, Fx65 reaching past 0xFFF; `addr` is the
  start of the access (R45). Safe. -/
  | memoryBoundsError (addr : Word)
  /-- Code 5, raised by Fx1E with I + Vx > 0xFFFF; `sum` is the exact sum (R100). Safe. -/
  | indexOverflow (sum : Nat)
  /-- Code 6, raised by Ex9E and ExA1 with Vx > 15 (R110, R111). Safe. -/
  | keyIndexError (k : Byte)
  /-- Code 7, raised by Dxyn under `DRAW_EDGE = Fault`; `x`, `y` are the start coordinates (R108). Safe. -/
  | drawBoundsError (x y : Byte)
  deriving DecidableEq, Repr

/-- Why a step would give no meaning. -/
inductive Refusal where
  /-- An arm of `exec` without a meaning. No arm raises it: every instruction has its meaning. Safe. -/
  | notModelled (mnemonic : String)
  deriving DecidableEq, Repr

/-- `status` (R31, R32). -/
inductive Status where
  /-- A Step executes an instruction. -/
  | running
  /-- An Fx0A at pc waits for a key-down event; `x` is the register that receives the key index. -/
  | waitKey (x : RegIx)
  /-- A fatal error: its kind, the address of the faulting instruction, and the opcode latch at the fault. -/
  | faulted (kind : Fault) (faultPc faultOpcode : Word)
  deriving DecidableEq, Repr

/-- Memory (R38, R40), as the cells that differ from the reset contents: addresses strictly rising, below 0x1000, and no
cell equal to what an unlisted address reads as (`Memory.wf`). -/
abbrev Memory := List Host.Cell

/-- The number of bytes of memory (R10). -/
abbrev memSize : Nat := 4096

/-- What an address that is not listed reads as: the reset contents, FONT at 0x000..0x04F and 0 elsewhere (R38, R39). -/
def Memory.unlisted (font : Vector Byte fontSize) (a : Nat) : Byte :=
  if h : a < fontSize then font[a] else 0#8

/-- `m` may stand behind address `a`: it is a list of cells above it. -/
def Memory.above (a : Nat) : Memory → Bool
  | [] => true
  | c :: _ => decide (a < c.1)

/-- The canonical form of memory. -/
def Memory.wf (font : Vector Byte fontSize) : Memory → Bool
  | [] => true
  | c :: m => decide (c.1 < memSize) && c.2 != Memory.unlisted font c.1 && Memory.above c.1 m && Memory.wf font m

/-- The framebuffer (R27): 32 rows, each of 64 one-bit pixels with column 0 the most significant bit, so that a row reads
from left to right. DESIGN CHOICE of representation (log entry 6, safe). -/
abbrev Framebuffer := Vector (BitVec 64) 32

/-- The state record (R17). -/
structure State where
  /-- memory (R38) -/
  mem : Memory
  /-- V0..VF (R18) -/
  regs : Vector Byte 16
  /-- I (R21) -/
  index : Word
  /-- pc (R22) -/
  pc : Word
  /-- the stack entries (R23) -/
  stack : Vector Word 16
  /-- sp, the number of live stack entries, 0..16 (R24) -/
  sp : Fin 17
  /-- the framebuffer (R27) -/
  fb : Framebuffer
  /-- draw_flag (R28) -/
  drawFlag : Bool
  /-- DT (R25) -/
  dt : Byte
  /-- ST (R26) -/
  st : Byte
  /-- the key array, true = pressed (R29) -/
  keys : Vector Bool 16
  /-- the opcode latch (R30) -/
  opcode : Word
  /-- status (R32) -/
  status : Status
  /-- The model's own: the parameters of R11, which nothing changes (log entry 1). -/
  params : Params
  /-- The model's own: how many random bytes have been drawn (log entry 2). -/
  draws : Nat
  deriving DecidableEq, Repr

/-- The state after Reset (R39, R143) under the parameters `p`. `draws` is the model's own: DESIGN CHOICE 0. -/
def State.resetWith (p : Params) : State where
  mem := []
  regs := Vector.replicate 16 0#8
  index := 0#16
  pc := 0x200#16
  stack := Vector.replicate 16 0#16
  sp := 0
  fb := Vector.replicate 32 0#64
  drawFlag := false
  dt := 60#8
  st := 0#8
  keys := Vector.replicate 16 false
  opcode := 0#16
  status := .running
  params := p
  draws := 0

/-- The state after Reset with the parameters at their defaults (R11). -/
def State.reset : State := State.resetWith Params.default

end Sys2Proof.Machine
end

