-- ==== Sys2Proof/Machine/Ops.lean ====
section
/-! DEFINITION. The named operations on memory, registers, stack, program counter and framebuffer that the meanings
share, and the raising of a fault. -/

namespace Sys2Proof.Machine

/-! ### Memory (R40 to R50) -/

/-- The byte listed at an address, if one is. -/
def Memory.listed (a : Nat) : Memory → Option Byte
  | [] => none
  | c :: m => if c.1 = a then some c.2 else Memory.listed a m

/-- The byte at an address. -/
def Memory.read (font : Vector Byte fontSize) (m : Memory) (a : Nat) : Byte :=
  (Memory.listed a m).getD (Memory.unlisted font a)

/-- The list with `v` at address `a` put before `m`, unless `v` is what an unlisted address reads as. -/
def Memory.put (font : Vector Byte fontSize) (a : Nat) (v : Byte) (m : Memory) : Memory :=
  if v = Memory.unlisted font a then m else (a, v) :: m

/-- Memory with the byte `v` at address `a`; keeps the canonical form for `a` below 0x1000. -/
def Memory.write (font : Vector Byte fontSize) (a : Nat) (v : Byte) : Memory → Memory
  | [] => Memory.put font a v []
  | c :: m =>
    if a < c.1 then Memory.put font a v (c :: m)
    else if a = c.1 then Memory.put font a v m
    else c :: Memory.write font a v m

/-- `mem[a]` (R14). -/
def State.readByte (s : State) (a : Nat) : Byte := Memory.read s.params.font s.mem a

/-- `mem[a] <- v` for `a` in 0..0xFFF. -/
def State.writeByte (s : State) (a : Nat) (v : Byte) : State :=
  { s with mem := Memory.write s.params.font a v s.mem }

/-- An access to the `n` bytes at `addr` reaches past 0xFFF (R45); an access to no byte does not. -/
def outOfBounds (addr : Word) (n : Nat) : Bool := decide (0 < n) && decide (addr.toNat + n - 1 > 0xFFF)

/-- `MemRead(addr, n)` (R45): the bytes at addr .. addr+n-1, or none where it raises MemoryBoundsError. -/
def State.memRead (s : State) (addr : Word) (n : Nat) : Option (List Byte) :=
  if outOfBounds addr n then none
  else some ((List.range n).map (fun k => s.readByte (addr.toNat + k)))

/-- The bytes `bs` at ascending addresses from `a` (R46). -/
def State.writeBytes (s : State) (a : Nat) : List Byte → State
  | [] => s
  | b :: bs => (s.writeByte a b).writeBytes (a + 1) bs

/-- `MemWrite(addr, n, v)` (R45): the bytes `bs` written at addr .. addr+n-1, or none where it raises
MemoryBoundsError. -/
def State.memWrite (s : State) (addr : Word) (bs : List Byte) : Option State :=
  if outOfBounds addr bs.length then none else some (s.writeBytes addr.toNat bs)

/-! ### General registers (R18, R19) -/

/-- `V[i]`. -/
def State.v (s : State) (i : RegIx) : Byte := s.regs[i.toNat]'(i.isLt)

/-- `V[i] <- b`. -/
def State.setV (s : State) (i : RegIx) (b : Byte) : State :=
  { s with regs := s.regs.set i.toNat b i.isLt }

/-- `V[0] .. V[x]`. -/
def State.regsUpTo (s : State) (x : RegIx) : List Byte := s.regs.toList.take (x.toNat + 1)

/-- `V[j] <- bs[j]` for every j that `bs` has. -/
def State.setRegsFrom (s : State) (bs : List Byte) : State :=
  { s with regs := s.regs.mapFinIdx (fun j b _ => bs[j]?.getD b) }

/-! ### Program counter (R22, R67) -/

/-- `Next`: pc + 2 (R14). -/
def State.next (s : State) : State := { s with pc := s.pc + 2#16 }

/-- `Skip`: pc + 4 (R14). -/
def State.skip (s : State) : State := { s with pc := s.pc + 4#16 }

/-- The conditional skip: pc + 4 when the condition holds, else pc + 2 (R67). -/
def State.skipIf (s : State) (c : Bool) : State := if c then s.skip else s.next

/-- `pc <- a`. -/
def State.jumpTo (s : State) (a : Word) : State := { s with pc := a }

/-! ### Stack (R23, R24) -/

/-- The stack with `a` pushed, or none when it is full. -/
def State.push (s : State) (a : Word) : Option State :=
  if h : s.sp.val < 16 then
    some { s with stack := s.stack.set s.sp.val a h, sp := ⟨s.sp.val + 1, by omega⟩ }
  else none

/-- The popped entry and the stack without it, or none when it is empty. The entry is not cleared (R23). -/
def State.pop (s : State) : Option (Word × State) :=
  if h : 0 < s.sp.val then
    some (s.stack[s.sp.val - 1]'(by have := s.sp.isLt; omega), { s with sp := ⟨s.sp.val - 1, by omega⟩ })
  else none

/-! ### Faults (R116, R117, R121) -/

/-- Raising a fault: `status <- Faulted(F, pc, opcode)` and nothing else. pc stays at the faulting instruction and the
latch is as the fetch left it (R117). There is no vector, no saved register and no return: only Reset leaves it (R121,
R122). -/
def State.raise (s : State) (f : Fault) : State := { s with status := .faulted f s.pc s.opcode }

/-! ### Fetch (R63, R64) -/

/-- The word at pc, or none when pc + 1 > 0xFFF (R63). -/
def State.fetch (s : State) : Option Word :=
  match s.memRead s.pc 2 with
  | some [hi, lo] => some (wordOfBytes hi lo)
  | _ => none

/-- `opcode <- w` (R64). -/
def State.latch (s : State) (w : Word) : State := { s with opcode := w }

/-- The state whose next Step fetches at an address where an instruction fits: status `Running`, and pc moved to the
program origin where pc + 1 > 0xFFF. Both hold already in every state that runs on. -/
def State.readyToFetch (s : State) : State :=
  { s with
    status := .running
    pc := if s.pc.toNat + 1 > 0xFFF then 0x200#16 else s.pc }

/-! ### Framebuffer (R27) -/

/-- `fb[px, py]`. -/
def Framebuffer.pixel (fb : Framebuffer) (px : Fin 64) (py : Fin 32) : Bool := (fb[py]).getMsbD px

/-- Every pixel 0. -/
def Framebuffer.clear : Framebuffer := Vector.replicate 32 0#64

/-- The framebuffer with every row XORed with the row of `mask` of the same number. -/
def Framebuffer.xor (fb : Framebuffer) (mask : Nat → BitVec 64) : Framebuffer :=
  fb.mapFinIdx (fun py row _ => row ^^^ mask py)

/-- Some pixel is 1 both in `fb` and in `mask`. -/
def Framebuffer.meets (fb : Framebuffer) (mask : Nat → BitVec 64) : Bool :=
  (List.finRange 32).any (fun py => fb[py] &&& mask py.val != 0#64)

/-- `fb[px, py]` of a state. -/
def State.pixel (s : State) (px : Fin 64) (py : Fin 32) : Bool := s.fb.pixel px py

end Sys2Proof.Machine
end

