-- ==== Sys2Proof/Machine/Flags.lean ====
section
/-! DEFINITION. The flag computations (R33) and the order of the flag write and the result write (R85). -/

namespace Sys2Proof.Machine

/-- A flag value, 1 or 0. -/
def flagByte (b : Bool) : Byte := if b then 1#8 else 0#8

/-- The carry of 8xy4: 1 if a + b > 255 else 0 (R92). -/
def carryFlag (a b : Byte) : Byte := flagByte (decide (a.toNat + b.toNat > 255))

/-- The not-borrow of a - b: 0 if b > a else 1 (R93, R95). -/
def notBorrowFlag (a b : Byte) : Byte := flagByte (!decide (b.toNat > a.toNat))

/-- The bit 0 that a right shift captures (R94). -/
def lowBitFlag (a : Byte) : Byte := flagByte (a.getLsbD 0)

/-- The bit 7 that a left shift captures (R96). -/
def highBitFlag (a : Byte) : Byte := flagByte (a.getLsbD 7)

/-- The two writes of 8xy4, 8xy5, 8xy6, 8xy7 and 8xyE in the order of `VF_WRITE_ORDER` (R85): `FlagFirst` reads V[x] and
V[y] again after the flag write; `FlagLast` reads both once and writes the flag last. -/
def State.writeResultAndFlag (s : State) (x y : RegIx) (result flag : Byte → Byte → Byte) : State :=
  match s.params.vfWriteOrder with
  | .flagFirst =>
    let s₁ := s.setV vF (flag (s.v x) (s.v y))
    s₁.setV x (result (s₁.v x) (s₁.v y))
  | .flagLast =>
    (s.setV x (result (s.v x) (s.v y))).setV vF (flag (s.v x) (s.v y))

end Sys2Proof.Machine
end

