-- ==== Sys2Proof/Machine/Alu.lean ====
section
/-! DEFINITION. The meanings of spec/41_alu.md: 6xnn, 7xnn, 8xy0 to 8xy7, 8xyE, Cxnn. None touches memory or faults, and
each ends with pc + 2. -/

namespace Sys2Proof.Machine

/-- 6xnn (R86). -/
def execLdImm (x : RegIx) (nn : Byte) (s : State) : Host.Outcome State Fault Refusal :=
  .next (s.setV x nn).next

/-- 7xnn (R87): wraps, writes no flag. -/
def execAddImm (x : RegIx) (nn : Byte) (s : State) : Host.Outcome State Fault Refusal :=
  .next (s.setV x (s.v x + nn)).next

/-- 8xy0 (R88). -/
def execLdReg (x y : RegIx) (s : State) : Host.Outcome State Fault Refusal :=
  .next (s.setV x (s.v y)).next

/-- 8xy1 (R89): writes no flag. -/
def execOrReg (x y : RegIx) (s : State) : Host.Outcome State Fault Refusal :=
  .next (s.setV x (s.v x ||| s.v y)).next

/-- 8xy2 (R90): writes no flag. -/
def execAndReg (x y : RegIx) (s : State) : Host.Outcome State Fault Refusal :=
  .next (s.setV x (s.v x &&& s.v y)).next

/-- 8xy3 (R91): writes no flag. -/
def execXorReg (x y : RegIx) (s : State) : Host.Outcome State Fault Refusal :=
  .next (s.setV x (s.v x ^^^ s.v y)).next

/-- 8xy4 (R92). -/
def execAddReg (x y : RegIx) (s : State) : Host.Outcome State Fault Refusal :=
  .next (s.writeResultAndFlag x y (fun a b => a + b) carryFlag).next

/-- 8xy5 (R93). -/
def execSubReg (x y : RegIx) (s : State) : Host.Outcome State Fault Refusal :=
  .next (s.writeResultAndFlag x y (fun a b => a - b) notBorrowFlag).next

/-- 8xy6 (R94): Vy is not read. -/
def execShrReg (x y : RegIx) (s : State) : Host.Outcome State Fault Refusal :=
  .next (s.writeResultAndFlag x y (fun a _ => a >>> 1) (fun a _ => lowBitFlag a)).next

/-- 8xy7 (R95). -/
def execSubnReg (x y : RegIx) (s : State) : Host.Outcome State Fault Refusal :=
  .next (s.writeResultAndFlag x y (fun a b => b - a) (fun a b => notBorrowFlag b a)).next

/-- 8xyE (R96): Vy is not read. -/
def execShlReg (x y : RegIx) (s : State) : Host.Outcome State Fault Refusal :=
  .next (s.writeResultAndFlag x y (fun a _ => a <<< 1) (fun a _ => highBitFlag a)).next

/-- Cxnn (R97): the random byte is the free value of this draw (log entry 2). -/
def execRnd (x : RegIx) (nn : Byte) (s : State) : Host.Outcome State Fault Refusal :=
  .next { (s.setV x (Config.randomByte s.draws &&& nn)).next with draws := s.draws + 1 }

end Sys2Proof.Machine
end

