-- ==== Sys2Proof/Machine/Operands.lean ====
section
/-! DEFINITION. The operand forms: how an instruction's fields and registers become an address, a list of bytes to
store, a sprite, a key index. -/

namespace Sys2Proof.Machine

/-- `nnn` as a 16-bit address (R60). -/
def addrOperand (nnn : Addr12) : Word := nnn.setWidth 16

/-- `nnn + V0`, the exact sum (R83): at most 0x10FE, so it fits 16 bits. -/
def offsetAddr (nnn : Addr12) (v0 : Byte) : Word := BitVec.ofNat 16 (nnn.toNat + v0.toNat)

/-- The address of the glyph of a digit: 5 times the register, not masked (R101). -/
def glyphAddr (d : Byte) : Word := BitVec.ofNat 16 (d.toNat * 5)

/-- The three decimal digits of a byte: hundreds, tens, ones (R102). -/
def decimalDigits (b : Byte) : List Byte :=
  [BitVec.ofNat 8 (b.toNat / 100), BitVec.ofNat 8 (b.toNat / 10 % 10), BitVec.ofNat 8 (b.toNat % 10)]

/-- I after Fx55 and Fx65: `I + x + 1` (R103, R104); at most 0x1000 where the access is in bounds. -/
def indexAfter (index : Word) (x : RegIx) : Word := BitVec.ofNat 16 (index.toNat + x.toNat + 1)

/-- `key[k]` for the key index in a register, or none when it is above 15 (R110, R111). -/
def State.keyAt (s : State) (k : Byte) : Option Bool :=
  if h : k.toNat < 16 then some (s.keys[k.toNat]'h) else none

/-! ### Sprites (R105, R106) -/

/-- Sprite bit c of a row byte, counted from the left: bit 7 - c (R105). -/
def spriteBit (row : Byte) (c : Nat) : Bool := row.getMsbD c

/-- A row byte on a 64-pixel screen row, its leftmost bit at column X: the bits past column 63 fall off (R106). -/
def spriteRow (row : Byte) (X : Nat) : BitVec 64 := (row ++ 0#56) >>> X

/-- The pixels of a screen row that a sprite at (X, Y) covers with a set bit: none above row Y or past its last row
(R105, R106). -/
def spriteMask (rows : List Byte) (X Y : Nat) (py : Nat) : BitVec 64 :=
  if Y ≤ py then spriteRow (rows[py - Y]?.getD 0#8) X else 0#64

/-- Some set bit of the sprite lands off the screen: X + c > 63 or Y + r > 31, exact sums (R106, R108). -/
def spriteOffScreen (rows : List Byte) (X Y : Nat) : Bool :=
  (List.range rows.length).any (fun r => (List.range 8).any (fun c =>
    spriteBit (rows[r]?.getD 0#8) c && (decide (X + c > 63) || decide (Y + r > 31))))

end Sys2Proof.Machine
end

