-- ==== Sys2Proof/Machine/Display.lean ====
section
/-! DEFINITION. The meanings of spec/43_display.md: 00E0 and Dxyn. -/

namespace Sys2Proof.Machine

/-- 00E0 (R107). -/
def execCls (s : State) : Host.Outcome State Fault Refusal :=
  .next ({ s with fb := Framebuffer.clear, drawFlag := true } : State).next

/-- The effect of Dxyn once its checks have passed (R108): the sprite rows XORed onto the screen at (X, Y), clipped to
it, VF = 1 where some pixel went from 1 to 0 and else 0, draw_flag set; I is not changed. -/
def State.draw (s : State) (rows : List Byte) (X Y : Nat) : State :=
  { s.setV vF (flagByte (s.fb.meets (spriteMask rows X Y))) with
    fb := s.fb.xor (spriteMask rows X Y), drawFlag := true }

/-- Dxyn (R108): V[x] and V[y] are read before VF is written; MemoryBoundsError is checked before DrawBoundsError
(R119). -/
def execDrw (x y : RegIx) (n : Nibble) (s : State) : Host.Outcome State Fault Refusal :=
  match s.memRead s.index n.toNat with
  | none => .next (s.raise (.memoryBoundsError s.index))
  | some rows =>
    if s.params.drawEdge = .fault ∧ spriteOffScreen rows (s.v x).toNat (s.v y).toNat = true then
      .next (s.raise (.drawBoundsError (s.v x) (s.v y)))
    else .next (s.draw rows (s.v x).toNat (s.v y).toNat).next

end Sys2Proof.Machine
end

