-- ==== Sys2Proof/Machine/IndexMemory.lean ====
section
/-! DEFINITION. The meanings of spec/42_index_memory.md: Annn, Fx1E, Fx29, Fx33, Fx55, Fx65. -/

namespace Sys2Proof.Machine

/-- Annn (R99). -/
def execLdI (nnn : Addr12) (s : State) : Host.Outcome State Fault Refusal :=
  .next ({ s with index := addrOperand nnn } : State).next

/-- Fx1E (R100): an exact sum, stored while it fits 16 bits; VF is not written. -/
def execAddI (x : RegIx) (s : State) : Host.Outcome State Fault Refusal :=
  if s.index.toNat + (s.v x).toNat > 0xFFFF then
    .next (s.raise (.indexOverflow (s.index.toNat + (s.v x).toNat)))
  else
    .next ({ s with index := BitVec.ofNat 16 (s.index.toNat + (s.v x).toNat) } : State).next

/-- Fx29 (R101). -/
def execLdF (x : RegIx) (s : State) : Host.Outcome State Fault Refusal :=
  .next ({ s with index := glyphAddr (s.v x) } : State).next

/-- Fx33 (R102): I is not changed. -/
def execLdB (x : RegIx) (s : State) : Host.Outcome State Fault Refusal :=
  match s.memWrite s.index (decimalDigits (s.v x)) with
  | none => .next (s.raise (.memoryBoundsError s.index))
  | some t => .next t.next

/-- Fx55 (R103). -/
def execStoreRegs (x : RegIx) (s : State) : Host.Outcome State Fault Refusal :=
  match s.memWrite s.index (s.regsUpTo x) with
  | none => .next (s.raise (.memoryBoundsError s.index))
  | some t => .next ({ t with index := indexAfter s.index x } : State).next

/-- Fx65 (R104). -/
def execLoadRegs (x : RegIx) (s : State) : Host.Outcome State Fault Refusal :=
  match s.memRead s.index (x.toNat + 1) with
  | none => .next (s.raise (.memoryBoundsError s.index))
  | some bs => .next ({ s.setRegsFrom bs with index := indexAfter s.index x } : State).next

end Sys2Proof.Machine
end

