-- ==== Sys2Proof/Machine/KeysTimers.lean ====
section
/-! DEFINITION. The meanings of spec/44_keys_timers.md: Ex9E, ExA1, Fx07, Fx0A, Fx15, Fx18. -/

namespace Sys2Proof.Machine

/-- Ex9E (R110). -/
def execSkp (x : RegIx) (s : State) : Host.Outcome State Fault Refusal :=
  match s.keyAt (s.v x) with
  | none => .next (s.raise (.keyIndexError (s.v x)))
  | some pressed => .next (s.skipIf pressed)

/-- ExA1 (R111). -/
def execSknp (x : RegIx) (s : State) : Host.Outcome State Fault Refusal :=
  match s.keyAt (s.v x) with
  | none => .next (s.raise (.keyIndexError (s.v x)))
  | some pressed => .next (s.skipIf (!pressed))

/-- Fx07 (R112). -/
def execLdVxDt (x : RegIx) (s : State) : Host.Outcome State Fault Refusal :=
  .next (s.setV x s.dt).next

/-- Fx0A (R113): the wait begins and pc stays; `State.keyDown` completes it. -/
def execLdVxK (x : RegIx) (s : State) : Host.Outcome State Fault Refusal :=
  .next { s with status := .waitKey x }

/-- Fx15 (R114). -/
def execLdDtVx (x : RegIx) (s : State) : Host.Outcome State Fault Refusal :=
  .next ({ s with dt := s.v x } : State).next

/-- Fx18 (R115): raises no Beep. -/
def execLdStVx (x : RegIx) (s : State) : Host.Outcome State Fault Refusal :=
  .next ({ s with st := s.v x } : State).next

end Sys2Proof.Machine
end

