-- ==== Sys2Proof/Machine/Step.lean ====
section
/-! DEFINITION. The Step operation (R66), and the placing of an instruction where the next Step fetches it. -/

namespace Sys2Proof.Machine

/-- `Step()` (R66): in `Faulted` and `WaitKey` nothing changes; in `Running` the fetch bound, the latch, the decode and
the execution come in this order (R63, R64, R65, R119). The Step result of R131 is the status of the next state. -/
def step (s : State) : Host.Outcome State Fault Refusal :=
  match s.status with
  | .faulted _ _ _ => .next s
  | .waitKey _ => .next s
  | .running =>
    match s.fetch with
    | none => .next (s.raise (.memoryBoundsError s.pc))
    | some w =>
      match decode w with
      | .error _ => .next ((s.latch w).raise (.decodeError w))
      | .ok i => exec i (s.latch w)

/-- `s` with the instruction of `tableWord nbits w` at pc, high byte first (R46), so that the next Step runs it. It
stands for the Load of R137 (log entry 12). -/
def State.withFetchWord (s : State) (nbits w : Nat) : State :=
  s.readyToFetch.writeBytes s.readyToFetch.pc.toNat (bytesOfWord (tableWord nbits w))

end Sys2Proof.Machine
end

