-- ==== Sys2Proof/Machine/HostOps.lean ====
section
/-! DEFINITION. The host operations other than Step (R130): Tick, KeyDown, KeyUp, DrawAck, Load, Reset, DebugDump, and
what the host reads of a state. Each is one atomic function of the state. -/

namespace Sys2Proof.Machine

/-- In status `Faulted` an operation other than Reset, Load and DebugDump changes nothing (R118). -/
def State.isFaulted (s : State) : Bool :=
  match s.status with
  | .faulted _ _ _ => true
  | .running => false
  | .waitKey _ => false

/-! ### Tick (R126, R127) -/

/-- DT after a Tick (R126): one less, but a zero stays; where the decrement reaches 0, `Reload60` leaves 60. -/
def delayAfterTick (p : DelayAtZero) (dt : Byte) : Byte :=
  if dt = 0#8 then 0#8
  else if dt - 1#8 = 0#8 ∧ p = .reload60 then 60#8
  else dt - 1#8

/-- ST after a Tick (R127): one less, but a zero stays. -/
def soundAfterTick (st : Byte) : Byte := if st = 0#8 then 0#8 else st - 1#8

/-- `Tick()` (R126, R127), in every status but `Faulted`. -/
def State.tick (s : State) : State :=
  if s.isFaulted then s
  else { s with dt := delayAfterTick s.params.delayAtZero s.dt, st := soundAfterTick s.st }

/-- The Tick emits Beep: it takes ST from 1 to 0 (R127). No state holds it. -/
def State.tickBeeps (s : State) : Bool := !s.isFaulted && s.st == 1#8

/-! ### Keys (R133, R134) -/

/-- `key[k] <- b`. -/
def State.setKey (s : State) (k : KeyIx) (b : Bool) : State :=
  { s with keys := s.keys.set k.toNat b k.isLt }

/-- `key[k]`. -/
def State.key (s : State) (k : KeyIx) : Bool := s.keys[k.toNat]'(k.isLt)

/-- `KeyDown(k)` (R133): marks the key pressed, and completes a waiting Fx0A (R113). -/
def State.keyDown (s : State) (k : KeyIx) : State :=
  match s.status with
  | .faulted _ _ _ => s
  | .running => s.setKey k true
  | .waitKey x => { ((s.setKey k true).setV x (k.setWidth 8)).next with status := .running }

/-- `KeyUp(k)` (R134): never completes Fx0A. -/
def State.keyUp (s : State) (k : KeyIx) : State :=
  if s.isFaulted then s else s.setKey k false

/-! ### Display (R135, R136) -/

/-- `DrawAck()` (R135). -/
def State.drawAck (s : State) : State := if s.isFaulted then s else { s with drawFlag := false }

/-- What the Renderer reads (R27, R136): the 2048 pixels, row-major, index x + y*64. -/
def State.graphics (s : State) : List Bool :=
  (List.finRange 32).flatMap (fun py => (List.finRange 64).map (fun px => s.pixel px py))

/-! ### Load, Reset, DebugDump (R137, R138, R143) -/

/-- The address a program is loaded at (R10, R137). -/
abbrev programOrigin : Nat := 0x200

/-- The longest ROM (R10, R137). -/
abbrev maxRomSize : Nat := 3584

/-- `Load(bytes)` (R137): the state with the bytes at 0x200, or none for `LoadError`, which changes nothing. The host
calls it only between Reset and the first Step (R146), which the machine does not enforce (log entry 9). -/
def State.load (s : State) (bytes : List Byte) : Option State :=
  if bytes.length > maxRomSize then none else some (s.writeBytes programOrigin bytes)

/-- `Reset()` (R143, R145), in every status: every field at its value of R39. The parameters are kept, and so is the
model's own count of draws (log entry 8). -/
def State.hostReset (s : State) : State := { State.resetWith s.params with draws := s.draws }

/-- The snapshot of a `DebugDump()` (R138): V0..VF, pc, I, opcode and status, from any state (95_test_vectors.md H10). The
fault record that R138 adds is the one that `status` holds. -/
structure Snapshot where
  regs : Vector Byte 16
  pc : Word
  index : Word
  opcode : Word
  status : Status
  deriving DecidableEq, Repr

/-- `DebugDump()` (R138): read-only. -/
def State.debugDump (s : State) : Snapshot where
  regs := s.regs
  pc := s.pc
  index := s.index
  opcode := s.opcode
  status := s.status

end Sys2Proof.Machine
end

