-- ==== Sys2Proof/Machine/Drive.lean ====
section
/-! DEFINITION. All the host operations of R130 as one type, one of them performed, and a run of them. The schedule is the
host's: any list of operations is a run (R128, D13, D30, log entry 4). -/

namespace Sys2Proof.Machine

/-- The operations of R130. -/
inductive HostOp where
  | step
  | tick
  | keyDown (k : KeyIx)
  | keyUp (k : KeyIx)
  | drawAck
  | load (bytes : List Byte)
  | reset
  | debugDump
  deriving DecidableEq, Repr

/-- What the host gets back from an operation. -/
inductive HostOutput where
  /-- The Step result (R131). -/
  | stepResult (status : Status)
  /-- Whether this Tick emitted Beep (R127). -/
  | ticked (beep : Bool)
  /-- Whether the Load was ok; false is `LoadError` (R137). -/
  | loaded (ok : Bool)
  /-- The Debug Dump (R138). -/
  | dump (snapshot : Snapshot)
  /-- Nothing. -/
  | done
  deriving DecidableEq, Repr

/-- One host operation (R130): the next state and what the host gets back. -/
def perform (op : HostOp) (s : State) : Host.Outcome (State × HostOutput) Fault Refusal :=
  match op with
  | .step =>
    match step s with
    | .next t => .next (t, .stepResult t.status)
    | .fault f => .fault f
    | .refused r => .refused r
  | .tick => .next (s.tick, .ticked s.tickBeeps)
  | .keyDown k => .next (s.keyDown k, .done)
  | .keyUp k => .next (s.keyUp k, .done)
  | .drawAck => .next (s.drawAck, .done)
  | .load bytes =>
    match s.load bytes with
    | some t => .next (t, .loaded true)
    | none => .next (s, .loaded false)
  | .reset => .next (s.hostReset, .done)
  | .debugDump => .next (s, .dump s.debugDump)

/-- A run: the operations in the host's order, and what the host got back from each. -/
def performAll : List HostOp → State → Host.Outcome (State × List HostOutput) Fault Refusal
  | [], s => .next (s, [])
  | op :: ops, s =>
    match perform op s with
    | .next (t, o) =>
      match performAll ops t with
      | .next (u, os) => .next (u, o :: os)
      | .fault f => .fault f
      | .refused r => .refused r
    | .fault f => .fault f
    | .refused r => .refused r

/-- The launch state of a program (R148): Reset, then a successful Load; none where the Load answers LoadError. -/
def launch (p : Params) (bytes : List Byte) : Option State := (State.resetWith p).load bytes

end Sys2Proof.Machine
end

