-- ==== Sys2Proof/Safety.lean ====
section
/-! DEFINITION. The terms claims use: how a run ends (R155), the host's fairness assumption (R128), the invariant of the
reachable states, and what it means for part of the state to be left unchanged. -/

namespace Sys2Proof.Safety

open Sys2Proof.Machine

/-- A run ends well at the first state that meets this (R155): status `Running` and at pc a jump to itself, taken before
that jump executes. It does not say that the chip stops (R156). -/
def EndsWell (s : State) : Prop :=
  s.status = .running ∧ ∃ nnn : Addr12, s.fetch = some (encode (.jp nnn)) ∧ addrOperand nnn = s.pc

/-- A run ends badly at the first state that meets this (R155). -/
def EndsBadly (s : State) : Prop := s.isFaulted = true

/-- `TICK_FAIRNESS` (R128): an infinite schedule of host operations contains infinitely many Ticks. An assumption about
the host, not a rule of the machine. -/
def TickFairness (schedule : Nat → HostOp) : Prop := ∀ n, ∃ m, n ≤ m ∧ schedule m = .tick

/-- The highest pc that a Step in `Running` can fetch from (R63). -/
abbrev lastFetchPc : Nat := 0xFFE

/-- The highest pc that any rule produces: nnn + V0 of Bnnn (R67, R83). -/
abbrev highestPc : Nat := 0x10FE

/-- What holds in every reachable state. -/
structure StateInvariant (s : State) : Prop where
  /-- The memory keeps its canonical form. -/
  memory : Memory.wf s.params.font s.mem = true
  /-- No rule carries pc past nnn + V0 (R67). -/
  pcBound : s.pc.toNat ≤ highestPc
  /-- A stack entry is the address of a 2nnn that was fetched (R76). -/
  stackBound : ∀ j : Fin 16, (s.stack[j]).toNat ≤ lastFetchPc
  /-- While Fx0A waits, pc is the address it was fetched from (R113). -/
  waitPc : ∀ x, s.status = .waitKey x → s.pc.toNat ≤ lastFetchPc
  /-- The fault record names the pc and the latch of the fault, which stay (R117, R118). -/
  faultRecord : ∀ f p o, s.status = .faulted f p o → p = s.pc ∧ o = s.opcode

/-- The parts of the state other than the general registers. -/
inductive Part where
  | mem | index | pc | stack | sp | fb | drawFlag | dt | st | keys | opcode | status | params | draws
  deriving DecidableEq, Repr

/-- A part reads the same in both states; memory byte by byte, for every address. -/
def Part.same : Part → State → State → Prop
  | .mem, s, t => ∀ a, t.readByte a = s.readByte a
  | .index, s, t => t.index = s.index
  | .pc, s, t => t.pc = s.pc
  | .stack, s, t => t.stack = s.stack
  | .sp, s, t => t.sp = s.sp
  | .fb, s, t => t.fb = s.fb
  | .drawFlag, s, t => t.drawFlag = s.drawFlag
  | .dt, s, t => t.dt = s.dt
  | .st, s, t => t.st = s.st
  | .keys, s, t => t.keys = s.keys
  | .opcode, s, t => t.opcode = s.opcode
  | .status, s, t => t.status = s.status
  | .params, s, t => t.params = s.params
  | .draws, s, t => t.draws = s.draws

/-- From `s` to `t` every part outside `parts` and every general register outside `regs` is unchanged. -/
def OnlyChanges (parts : List Part) (regs : RegIx → Prop) (s t : State) : Prop :=
  (∀ p : Part, p ∉ parts → p.same s t) ∧ ∀ r : RegIx, ¬ regs r → t.v r = s.v r

/-- No general register. -/
def noRegs : RegIx → Prop := fun _ => False

/-- `t` is `s` after the fault `f` and nothing else (R117). -/
def FaultsWith (f : Fault) (s t : State) : Prop :=
  t.status = .faulted f s.pc s.opcode ∧ OnlyChanges [.status] noRegs s t

/-- A pc whose fetch would pass 0xFFF faults at the next Step, not before (R63, R84). -/
def FaultsWhenFetchedPastEnd (s : State) : Prop :=
  s.status = .running → s.pc.toNat + 1 > 0xFFF →
    ∃ u, step s = .next u ∧ FaultsWith (.memoryBoundsError s.pc) s u

/-- `i` executes at `s`, and the next state meets `post`. -/
def Completes (i : Instr) (s : State) (post : State → Prop) : Prop :=
  ∃ t, exec i s = .next t ∧ post t

/-- What R85 and R92 to R96 say of an instruction that writes a result to V[x] and a flag to VF, with the result and the
flag as exact numbers of the two operands: the values written under each `VF_WRITE_ORDER`, pc + 2, and nothing else. -/
def WritesResultAndFlag (i : Instr) (x y : RegIx) (result flag : Nat → Nat → Nat) (s : State) : Prop :=
  Completes i s fun t =>
    let a := (s.v x).toNat
    let b := (s.v y).toNat
    let f := flag a b
    (s.params.vfWriteOrder = .flagFirst →
      (t.v x).toNat = result (if x = vF then f else a) (if y = vF then f else b) ∧
      (x ≠ vF → (t.v vF).toNat = f)) ∧
    (s.params.vfWriteOrder = .flagLast →
      (t.v vF).toNat = f ∧ (x ≠ vF → (t.v x).toNat = result a b)) ∧
    t.pc = s.pc + 2#16 ∧ OnlyChanges [.pc] (fun r => r = x ∨ r = vF) s t

/-- The access to the `n` bytes at I stays below 0x1000 (R45); no byte is always in bounds. -/
def InBounds (s : State) (n : Nat) : Prop := n = 0 ∨ s.index.toNat + n - 1 ≤ 0xFFF

/-- The sprite of Dxyn at (X, Y) covers the pixel (px, py) with a set bit: sprite bit c of row r, counted from the left,
is bit 7 - c of the byte at I + r (R105), and lands at column X + c and row Y + r, exact sums (R106). -/
def SpriteCovers (s : State) (n X Y px py : Nat) : Prop :=
  ∃ r < n, ∃ c < 8, (s.readByte (s.index.toNat + r)).getLsbD (7 - c) = true ∧ px = X + c ∧ py = Y + r

/-- A set sprite bit of Dxyn lands off the screen (R106). -/
def SpriteLeavesScreen (s : State) (n X Y : Nat) : Prop :=
  ∃ px py, SpriteCovers s n X Y px py ∧ (px > 63 ∨ py > 31)

/-- Two states that no program can tell apart by state that no instruction reads: they agree on everything but ST (R26),
draw_flag (R28) and the stack entries at or above sp (R23). -/
structure AlikeToPrograms (s t : State) : Prop where
  parts : ∀ p : Part, p ∉ [Part.st, Part.drawFlag, Part.stack] → p.same s t
  memory : t.mem = s.mem
  regs : ∀ r, t.v r = s.v r
  liveStack : ∀ j, j < s.sp.val → t.stack[j]? = s.stack[j]?

end Sys2Proof.Safety
end

