-- ==== Sys2Proof/Certificates/Slice0/Obligations.lean ====
section
/-! DEFINITION. The statements for the provers, from the numbered rules of spec/. `pc + 2` and `pc + 4` are written in the
16 bits of pc; `NextPcOfEveryInstruction` gives them as exact numbers wherever an instruction can be fetched (log
entry 5). -/

open Sys2Proof Sys2Proof.Machine Sys2Proof.Safety

/-! ### Encoding and decoding (spec/30_encoding.md) -/

/-- Formats of R59 and opcode map of R62: the decoder reads back every instruction from its word, with every operand at
every value of its field. -/
def Obligations.DecodeOfEncodeIsTheInstruction : Prop :=
  ∀ i : Instr, decode (encode i) = .ok i

/-- Formats of R59: the word of a decoded instruction is the word it was decoded from, so no bit of a legal word is
dropped (the ignored y of 8xy6 and 8xyE among them). -/
def Obligations.EncodeOfDecodeIsTheWord : Prop :=
  ∀ (w : Word) (i : Instr), decode w = .ok i → encode i = w

/-- R65: decode answers the unique instruction whose row of the opcode table matches the word, and `DecodeError(w)` where
no row matches; 0x01E0 and 0x5121 are illegal. -/
def Obligations.DecodeFollowsOpcodeTable : Prop :=
  (∀ (w : Word) (i : Instr), decode w = .ok i →
    ∀ (k : Nat) (r : OpcodeRow), opcodeTable[k]? = some r → (r.accepts w = true ↔ k = i.rowNumber)) ∧
  (∀ (w : Word) (e : DecodeReject), decode w = .error e →
    e = .illegal w ∧ ∀ r ∈ opcodeTable, r.accepts w = false) ∧
  decode 0x01E0#16 = .error (.illegal 0x01E0#16) ∧ decode 0x5121#16 = .error (.illegal 0x5121#16)

/-- The classes of R68 (an inference the spec marks as its own; the counts of its table are left out): the words that
decode refuses, which are also those that the checks of WellFormed.lean refuse. -/
def Obligations.IllegalWordsAreTheListedClasses : Prop :=
  ∀ w : Word,
    (decode w = .error (.illegal w) ↔ wellFormed w = false) ∧
    (decode w = .error (.illegal w) ↔
      (opField w = 0x0#4 ∧ w ≠ 0x00E0#16 ∧ w ≠ 0x00EE#16) ∨
      (opField w = 0x5#4 ∧ nField w ≠ 0x0#4) ∨
      (opField w = 0x8#4 ∧ nField w ∈ [0x8#4, 0x9#4, 0xA#4, 0xB#4, 0xC#4, 0xD#4, 0xF#4]) ∨
      (opField w = 0x9#4 ∧ nField w ≠ 0x0#4) ∨
      (opField w = 0xE#4 ∧ nnField w ∉ [0x9E#8, 0xA1#8]) ∨
      (opField w = 0xF#4 ∧
        nnField w ∉ [0x07#8, 0x0A#8, 0x15#8, 0x18#8, 0x1E#8, 0x29#8, 0x33#8, 0x55#8, 0x65#8]))

/-- The worked examples of R75, from the bytes as they lie in memory (R57). -/
def Obligations.WorkedWordsDecodeAsListed : Prop :=
  decodeBytes [0x8A#8, 0xB4#8] = .ok (.addReg 0xA#4 0xB#4, []) ∧
  decodeBytes [0xF2#8, 0x33#8] = .ok (.ldB 0x2#4, []) ∧
  decodeBytes [0xD1#8, 0x25#8] = .ok (.drw 0x1#4 0x2#4 0x5#4, []) ∧
  decodeBytes [0x51#8, 0x21#8] = .error (.illegal 0x5121#16) ∧
  decodeBytes [0x01#8, 0x23#8] = .error (.illegal 0x0123#16)

/-! ### The Step cycle and faults (R63 to R67, R116 to R119) -/

/-- A Step runs the decoded instruction: where the two bytes at pc, high byte first, decode to `i` (every decoded word is
well formed), the Step in `Running` is `exec i` on the state whose latch holds the word. Nothing is put around exec:
pc is the instruction's own address (R15) and exec sets the next one. -/
def Obligations.StepRunsTheDecodedInstruction : Prop :=
  ∀ (s : State) (i : Instr), s.status = .running → s.pc.toNat + 1 ≤ 0xFFF →
    decode (wordOfBytes (s.readByte s.pc.toNat) (s.readByte (s.pc.toNat + 1))) = .ok i →
    i.WellFormed ∧
    step s = exec i { s with opcode := wordOfBytes (s.readByte s.pc.toNat) (s.readByte (s.pc.toNat + 1)) }

/-- R63 and R66, case by case: in `Faulted` and `WaitKey` nothing changes; a fetch past 0xFFF faults with the latch
kept; an illegal word faults with the latch written; a legal word is executed. -/
def Obligations.StepCycleByStatusAndFetch : Prop :=
  ∀ s : State,
    (s.status ≠ .running → step s = .next s) ∧
    (s.status = .running → s.pc.toNat + 1 > 0xFFF →
      ∃ t, step s = .next t ∧ FaultsWith (.memoryBoundsError s.pc) s t) ∧
    (s.status = .running → s.pc.toNat + 1 ≤ 0xFFF →
      ∃ w : Word, w = s.readByte s.pc.toNat ++ s.readByte (s.pc.toNat + 1) ∧
        (∀ e, decode w = .error e →
          ∃ t, step s = .next t ∧ FaultsWith (.decodeError w) { s with opcode := w } t) ∧
        (∀ i, decode w = .ok i → step s = exec i { s with opcode := w }))

/-- R66 and R117: a Step always answers a next state, a fault being one; no state, reachable or not, stops the model. -/
def Obligations.StepAlwaysAnswersNextState : Prop :=
  ∀ s : State, ∃ t, step s = .next t

/-- R117: a Step that faults writes nothing but the latch and the status; pc stays; the record names the pc and the
latch; the latch holds the fetched word, or its old value where the fetch itself faulted. -/
def Obligations.FaultsArePrecise : Prop :=
  ∀ (s t : State) (f : Fault) (p o : Word),
    s.status = .running → step s = .next t → t.status = .faulted f p o →
    p = s.pc ∧ o = t.opcode ∧ OnlyChanges [.status, .opcode] noRegs s t ∧
    (s.pc.toNat + 1 > 0xFFF → t.opcode = s.opcode) ∧
    (s.pc.toNat + 1 ≤ 0xFFF → t.opcode = s.readByte s.pc.toNat ++ s.readByte (s.pc.toNat + 1))

/-- The fault conditions of R116, over all instructions: in `Running` an instruction faults exactly where its rule says,
and no other instruction ever does. -/
def Obligations.OnlyListedConditionsFault : Prop :=
  ∀ (i : Instr) (s t : State), s.status = .running → exec i s = .next t →
    (t.isFaulted = true ↔
      match i with
      | .ret => s.sp.val = 0
      | .call _ => s.sp.val = 16
      | .addI x => s.index.toNat + (s.v x).toNat > 0xFFFF
      | .skp x | .sknp x => (s.v x).toNat > 15
      | .ldB _ => s.index.toNat + 2 > 0xFFF
      | .storeRegs x | .loadRegs x => s.index.toNat + x.toNat > 0xFFF
      | .drw x y n => ¬ InBounds s n.toNat ∨
          (s.params.drawEdge = .fault ∧ SpriteLeavesScreen s n.toNat (s.v x).toNat (s.v y).toNat)
      | _ => False)

/-- The next-pc table of R67 (an inference the spec marks as its own), as exact numbers: none of them wraps. A Step that
faults leaves pc. -/
def Obligations.NextPcOfEveryInstruction : Prop :=
  ∀ (s t : State) (w : Word) (i : Instr), StateInvariant s → s.status = .running → s.fetch = some w →
    decode w = .ok i → step s = .next t →
    if t.isFaulted = true then t.pc = s.pc else
      match i with
      | .jp nnn | .call nnn => t.pc.toNat = nnn.toNat
      | .jpV0 nnn => t.pc.toNat = nnn.toNat + (s.v 0#4).toNat
      | .ret => ∃ ra, s.stack[s.sp.val - 1]? = some ra ∧ t.pc.toNat = ra.toNat + 2
      | .seImm x nn => t.pc.toNat = s.pc.toNat + if s.v x = nn then 4 else 2
      | .sneImm x nn => t.pc.toNat = s.pc.toNat + if s.v x = nn then 2 else 4
      | .seReg x y => t.pc.toNat = s.pc.toNat + if s.v x = s.v y then 4 else 2
      | .sneReg x y => t.pc.toNat = s.pc.toNat + if s.v x = s.v y then 2 else 4
      | .skp x => t.pc.toNat = s.pc.toNat + if s.keys[(s.v x).toNat]? = some true then 4 else 2
      | .sknp x => t.pc.toNat = s.pc.toNat + if s.keys[(s.v x).toNat]? = some true then 2 else 4
      | .ldVxK _ => t.pc = s.pc
      | _ => t.pc.toNat = s.pc.toNat + 2

/-! ### Invariants -/

/-- The reset state meets the invariant, under every value of the parameters. -/
def Obligations.ResetMeetsInvariant : Prop :=
  StateInvariant State.reset ∧ ∀ p : Params, StateInvariant (State.resetWith p)

/-- Every Step keeps the invariant: canonical memory, pc within 0x10FE, stack entries within 0xFFE, a waiting Fx0A at an
address it was fetched from, a fault record that names pc and latch. -/
def Obligations.StepKeepsInvariant : Prop :=
  ∀ s t : State, StateInvariant s → step s = .next t → StateInvariant t

/-- Every host operation other than Step keeps the invariant (R130, R139). -/
def Obligations.HostOperationsKeepInvariant : Prop :=
  ∀ (op : HostOp) (s t : State) (o : HostOutput),
    op ≠ .step → StateInvariant s → perform op s = .next (t, o) → StateInvariant t

/-- Every state that any run of host operations reaches from Reset meets the invariant, whatever the schedule of Steps,
Ticks and key events (R128). -/
def Obligations.EveryReachableStateMeetsInvariant : Prop :=
  ∀ (p : Params) (ops : List HostOp), ∃ (t : State) (os : List HostOutput),
    performAll ops (State.resetWith p) = .next (t, os) ∧ StateInvariant t ∧ t.params = p ∧ os.length = ops.length

/-- No operation changes a parameter of R11: they are fixed for the machine (log entry 1, the model's own field). -/
def Obligations.ParametersNeverChange : Prop :=
  ∀ (op : HostOp) (s t : State) (o : HostOutput), perform op s = .next (t, o) → t.params = s.params

/-- The writers that 10_state.md names for each piece of state, over all instructions: I (R21), the stack and sp (R23,
R24), DT and ST (R25, R26: never counted down by an instruction), the framebuffer and draw_flag (R27, R28), the key
array (R29), the latch (R30), memory (R48), status (R32). -/
def Obligations.OnlyNamedInstructionsWriteEachPart : Prop :=
  ∀ (i : Instr) (s t : State), exec i s = .next t →
    (t.fb = s.fb ∧ t.drawFlag = s.drawFlag ∨ i = .cls ∨ ∃ x y n, i = .drw x y n) ∧
    (t.dt = s.dt ∨ ∃ x, i = .ldDtVx x) ∧
    (t.st = s.st ∨ ∃ x, i = .ldStVx x) ∧
    (t.stack = s.stack ∨ ∃ nnn, i = .call nnn) ∧
    (t.sp = s.sp ∨ i = .ret ∨ ∃ nnn, i = .call nnn) ∧
    (t.index = s.index ∨ (∃ nnn, i = .ldI nnn) ∨
      ∃ x, i = .addI x ∨ i = .ldF x ∨ i = .storeRegs x ∨ i = .loadRegs x) ∧
    ((∀ a, t.readByte a = s.readByte a) ∨ ∃ x, i = .ldB x ∨ i = .storeRegs x) ∧
    t.keys = s.keys ∧ t.opcode = s.opcode ∧
    (t.status = s.status ∨ t.isFaulted = true ∨ ∃ x, i = .ldVxK x)

/-- The table of R33, over all instructions: an instruction writes VF only if it is one of the six that report a flag or
a collision, or names VF as its destination; in particular 7xnn, 8xy1 to 8xy3 and Fx1E do not. -/
def Obligations.OnlyFlagInstructionsWriteVF : Prop :=
  ∀ (i : Instr) (s t : State), exec i s = .next t → t.v vF ≠ s.v vF →
    (∃ x y, i = .addReg x y ∨ i = .subReg x y ∨ i = .shrReg x y ∨ i = .subnReg x y ∨ i = .shlReg x y) ∨
    (∃ x y n, i = .drw x y n) ∨
    (∃ nn, i = .ldImm vF nn ∨ i = .addImm vF nn ∨ i = .rnd vF nn) ∨
    (∃ y, i = .ldReg vF y ∨ i = .orReg vF y ∨ i = .andReg vF y ∨ i = .xorReg vF y) ∨
    i = .ldVxDt vF ∨ i = .loadRegs vF

/-! ### Control transfer (spec/40_control_flow.md) -/

/-- R76, with the spec's decisions D2 and D21: 00EE goes to the popped entry + 2, leaves the entry in place, and faults
with sp = 0. -/
def Obligations.ReturnGoesPastTheCallSite : Prop :=
  decode 0x00EE#16 = .ok .ret ∧
  ∀ s : State,
    (s.sp.val = 0 → Completes .ret s (FaultsWith .stackUnderflow s)) ∧
    (0 < s.sp.val → Completes .ret s fun t =>
      t.sp.val = s.sp.val - 1 ∧
      (∃ ra, s.stack[s.sp.val - 1]? = some ra ∧ t.pc = ra + 2#16 ∧
        (StateInvariant s → t.pc.toNat = ra.toNat + 2 ∧ t.pc.toNat ≤ 0x1000)) ∧
      FaultsWhenFetchedPastEnd t ∧ OnlyChanges [.sp, .pc] noRegs s t)

/-- R78, with the spec's decisions D2 and D21: 2nnn pushes its own address at stack[sp], and faults with sp = 16. -/
def Obligations.CallPushesItsOwnAddress : Prop :=
  ∀ nnn : Addr12, decode (0x2#4 ++ nnn) = .ok (.call nnn) ∧
  ∀ s : State,
    (s.sp.val = 16 → Completes (.call nnn) s (FaultsWith .stackOverflow s)) ∧
    (s.sp.val < 16 → Completes (.call nnn) s fun t =>
      t.stack[s.sp.val]? = some s.pc ∧ (∀ j, j ≠ s.sp.val → t.stack[j]? = s.stack[j]?) ∧
      t.sp.val = s.sp.val + 1 ∧ t.pc.toNat = nnn.toNat ∧
      OnlyChanges [.stack, .sp, .pc] noRegs s t)

/-- E8 of 95_test_vectors.md: a call and then a return leave pc after the call site and sp as it was, wherever the
subroutine is and whatever it did to the rest of the state in between. -/
def Obligations.CallThenReturnComesBack : Prop :=
  ∀ (nnn : Addr12) (s : State), s.sp.val < 16 →
    Completes (.call nnn) s fun t =>
      ∀ u : State, u.stack = t.stack → u.sp = t.sp →
        Completes .ret u fun r => r.pc = s.pc + 2#16 ∧ r.sp = s.sp ∧
          ∀ j, j < s.sp.val → r.stack[j]? = s.stack[j]?

/-- R77 and R83: 1nnn goes to nnn, Bnnn to the exact sum nnn + V0, always V0; a target whose fetch would pass 0xFFF faults
at the next fetch, not at the jump. -/
def Obligations.JumpsGoToTheirTarget : Prop :=
  ∀ nnn : Addr12,
    decode (0x1#4 ++ nnn) = .ok (.jp nnn) ∧ decode (0xB#4 ++ nnn) = .ok (.jpV0 nnn) ∧
    ∀ s : State,
      (Completes (.jp nnn) s fun t =>
        t.pc.toNat = nnn.toNat ∧ OnlyChanges [.pc] noRegs s t ∧ FaultsWhenFetchedPastEnd t) ∧
      (Completes (.jpV0 nnn) s fun t =>
        t.pc.toNat = nnn.toNat + (s.v 0#4).toNat ∧ OnlyChanges [.pc] noRegs s t ∧ FaultsWhenFetchedPastEnd t)

/-- R79 and R80: 3xnn and 4xnn move pc by 4 or 2 and change nothing else; a skip past memory faults at the next fetch. -/
def Obligations.ImmediateSkipsMovePcByFourOrTwo : Prop :=
  ∀ (x : RegIx) (nn : Byte),
    decode (0x3#4 ++ (x ++ nn)) = .ok (.seImm x nn) ∧ decode (0x4#4 ++ (x ++ nn)) = .ok (.sneImm x nn) ∧
    ∀ s : State,
      (Completes (.seImm x nn) s fun t =>
        (s.v x = nn → t.pc = s.pc + 4#16) ∧ (s.v x ≠ nn → t.pc = s.pc + 2#16) ∧
        FaultsWhenFetchedPastEnd t ∧ OnlyChanges [.pc] noRegs s t) ∧
      (Completes (.sneImm x nn) s fun t =>
        (s.v x ≠ nn → t.pc = s.pc + 4#16) ∧ (s.v x = nn → t.pc = s.pc + 2#16) ∧
        FaultsWhenFetchedPastEnd t ∧ OnlyChanges [.pc] noRegs s t)

/-- R81 and R82, with the spec's decision D6 on the illegal forms: 5xy0 and 9xy0 move pc by 4 or 2 and change nothing
else; a low nibble other than 0 is illegal. -/
def Obligations.RegisterSkipsMovePcByFourOrTwo : Prop :=
  ∀ x y : RegIx,
    decode (0x5#4 ++ (x ++ (y ++ 0x0#4))) = .ok (.seReg x y) ∧
    decode (0x9#4 ++ (x ++ (y ++ 0x0#4))) = .ok (.sneReg x y) ∧
    (∀ n : Nibble, n ≠ 0x0#4 →
      decode (0x5#4 ++ (x ++ (y ++ n))) = .error (.illegal (0x5#4 ++ (x ++ (y ++ n)))) ∧
      decode (0x9#4 ++ (x ++ (y ++ n))) = .error (.illegal (0x9#4 ++ (x ++ (y ++ n))))) ∧
    ∀ s : State,
      (Completes (.seReg x y) s fun t =>
        (s.v x = s.v y → t.pc = s.pc + 4#16) ∧ (s.v x ≠ s.v y → t.pc = s.pc + 2#16) ∧
        OnlyChanges [.pc] noRegs s t) ∧
      (Completes (.sneReg x y) s fun t =>
        (s.v x ≠ s.v y → t.pc = s.pc + 4#16) ∧ (s.v x = s.v y → t.pc = s.pc + 2#16) ∧
        OnlyChanges [.pc] noRegs s t)

/-! ### Registers and arithmetic (spec/41_alu.md) -/

/-- R86 and R87: 6xnn loads nn; 7xnn adds it modulo 256 and writes no flag. -/
def Obligations.ImmediateLoadAndAdd : Prop :=
  ∀ (x : RegIx) (nn : Byte),
    decode (0x6#4 ++ (x ++ nn)) = .ok (.ldImm x nn) ∧ decode (0x7#4 ++ (x ++ nn)) = .ok (.addImm x nn) ∧
    ∀ s : State,
      (Completes (.ldImm x nn) s fun t =>
        t.v x = nn ∧ t.pc = s.pc + 2#16 ∧ OnlyChanges [.pc] (· = x) s t) ∧
      (Completes (.addImm x nn) s fun t =>
        (t.v x).toNat = ((s.v x).toNat + nn.toNat) % 256 ∧ t.pc = s.pc + 2#16 ∧ OnlyChanges [.pc] (· = x) s t)

/-- R88 to R91: 8xy0 copies; 8xy1, 8xy2, 8xy3 are the bitwise or, and, exclusive or; none writes a flag. -/
def Obligations.RegisterCopyAndLogic : Prop :=
  ∀ x y : RegIx,
    decode (0x8#4 ++ (x ++ (y ++ 0x0#4))) = .ok (.ldReg x y) ∧
    decode (0x8#4 ++ (x ++ (y ++ 0x1#4))) = .ok (.orReg x y) ∧
    decode (0x8#4 ++ (x ++ (y ++ 0x2#4))) = .ok (.andReg x y) ∧
    decode (0x8#4 ++ (x ++ (y ++ 0x3#4))) = .ok (.xorReg x y) ∧
    ∀ s : State,
      (Completes (.ldReg x y) s fun t =>
        t.v x = s.v y ∧ t.pc = s.pc + 2#16 ∧ OnlyChanges [.pc] (· = x) s t) ∧
      (Completes (.orReg x y) s fun t =>
        (∀ k, (t.v x).getLsbD k = ((s.v x).getLsbD k || (s.v y).getLsbD k)) ∧
        t.pc = s.pc + 2#16 ∧ OnlyChanges [.pc] (· = x) s t) ∧
      (Completes (.andReg x y) s fun t =>
        (∀ k, (t.v x).getLsbD k = ((s.v x).getLsbD k && (s.v y).getLsbD k)) ∧
        t.pc = s.pc + 2#16 ∧ OnlyChanges [.pc] (· = x) s t) ∧
      (Completes (.xorReg x y) s fun t =>
        (∀ k, (t.v x).getLsbD k = ((s.v x).getLsbD k ^^ (s.v y).getLsbD k)) ∧
        t.pc = s.pc + 2#16 ∧ OnlyChanges [.pc] (· = x) s t)

/-- R92, with the spec's decision D7: 8xy4 adds modulo 256; VF is the carry, under both write orders. -/
def Obligations.AddWritesSumAndCarry : Prop :=
  ∀ x y : RegIx, decode (0x8#4 ++ (x ++ (y ++ 0x4#4))) = .ok (.addReg x y) ∧
    ∀ s : State, WritesResultAndFlag (.addReg x y) x y
      (fun a b => (a + b) % 256) (fun a b => if a + b > 255 then 1 else 0) s

/-- R93 and R95, with the spec's decision D7: 8xy5 and 8xy7 subtract modulo 256; VF is the not-borrow, under both write
orders. -/
def Obligations.SubtractionsWriteDifferenceAndNotBorrow : Prop :=
  ∀ x y : RegIx,
    decode (0x8#4 ++ (x ++ (y ++ 0x5#4))) = .ok (.subReg x y) ∧
    decode (0x8#4 ++ (x ++ (y ++ 0x7#4))) = .ok (.subnReg x y) ∧
    ∀ s : State,
      WritesResultAndFlag (.subReg x y) x y
        (fun a b => (a + 256 - b) % 256) (fun a b => if b > a then 0 else 1) s ∧
      WritesResultAndFlag (.subnReg x y) x y
        (fun a b => (b + 256 - a) % 256) (fun a b => if a > b then 0 else 1) s

/-- R94 and R96, with the spec's decision D7: 8xy6 and 8xyE shift Vx by one; VF is the bit shifted out; the value of Vy is
not read. -/
def Obligations.ShiftsWriteResultAndBitShiftedOut : Prop :=
  ∀ x y : RegIx,
    decode (0x8#4 ++ (x ++ (y ++ 0x6#4))) = .ok (.shrReg x y) ∧
    decode (0x8#4 ++ (x ++ (y ++ 0xE#4))) = .ok (.shlReg x y) ∧
    ∀ s : State,
      WritesResultAndFlag (.shrReg x y) x y (fun a _ => a / 2) (fun a _ => a % 2) s ∧
      WritesResultAndFlag (.shlReg x y) x y (fun a _ => a * 2 % 256) (fun a _ => a / 128) s

/-- R85 (an inference the spec marks as its own): where neither operand is VF, the two write orders give the same next
state. -/
def Obligations.WriteOrdersAgreeAwayFromVF : Prop :=
  ∀ (x y : RegIx) (i : Instr) (s : State), x ≠ vF → y ≠ vF →
    i ∈ [.addReg x y, .subReg x y, .shrReg x y, .subnReg x y, .shlReg x y] →
    ∃ t : State, ∀ order : VfWriteOrder,
      exec i { s with params := { s.params with vfWriteOrder := order } } =
        .next { t with params := { s.params with vfWriteOrder := order } }

/-- R97 and D16, with the draw as the free value of log entry 2 (the model's choice of form, not the spec's): Cxnn writes
the byte of a draw masked by nn, and uses a fresh draw each time. Nothing here rests on what the byte is. -/
def Obligations.RandomByteIsMaskedByImmediate : Prop :=
  ∀ (x : RegIx) (nn : Byte), decode (0xC#4 ++ (x ++ nn)) = .ok (.rnd x nn) ∧
    ∀ s : State, Completes (.rnd x nn) s fun t =>
      t.v x = Config.randomByte s.draws &&& nn ∧ t.draws = s.draws + 1 ∧
      (∀ k, nn.getLsbD k = false → (t.v x).getLsbD k = false) ∧
      t.pc = s.pc + 2#16 ∧ OnlyChanges [.pc, .draws] (· = x) s t

/-! ### Index register and memory transfer (spec/42_index_memory.md) -/

/-- R99 and R101: Annn loads I with nnn, Fx29 with five times Vx, not masked. -/
def Obligations.IndexLoads : Prop :=
  (∀ nnn : Addr12, decode (0xA#4 ++ nnn) = .ok (.ldI nnn) ∧
    ∀ s : State, Completes (.ldI nnn) s fun t =>
      t.index.toNat = nnn.toNat ∧ t.pc = s.pc + 2#16 ∧ OnlyChanges [.index, .pc] noRegs s t) ∧
  (∀ x : RegIx, decode (0xF#4 ++ (x ++ 0x29#8)) = .ok (.ldF x) ∧
    ∀ s : State, Completes (.ldF x) s fun t =>
      t.index.toNat = (s.v x).toNat * 5 ∧ t.pc = s.pc + 2#16 ∧ OnlyChanges [.index, .pc] noRegs s t)

/-- R100, with the spec's decision D4: Fx1E stores the exact sum while it fits 16 bits, faults past that, and never writes
VF. -/
def Obligations.IndexAddOrOverflow : Prop :=
  ∀ x : RegIx, decode (0xF#4 ++ (x ++ 0x1E#8)) = .ok (.addI x) ∧
    ∀ s : State,
      (s.index.toNat + (s.v x).toNat > 0xFFFF →
        Completes (.addI x) s (FaultsWith (.indexOverflow (s.index.toNat + (s.v x).toNat)) s)) ∧
      (s.index.toNat + (s.v x).toNat ≤ 0xFFFF → Completes (.addI x) s fun t =>
        t.index.toNat = s.index.toNat + (s.v x).toNat ∧ t.pc = s.pc + 2#16 ∧
        OnlyChanges [.index, .pc] noRegs s t)

/-- R102, with the spec's decision D3: Fx33 stores hundreds, tens and ones at I, I+1, I+2 and nothing elsewhere, or
faults having stored nothing. -/
def Obligations.DecimalDigitsAreStored : Prop :=
  ∀ x : RegIx, decode (0xF#4 ++ (x ++ 0x33#8)) = .ok (.ldB x) ∧
    ∀ s : State,
      (s.index.toNat + 2 > 0xFFF → Completes (.ldB x) s (FaultsWith (.memoryBoundsError s.index) s)) ∧
      (s.index.toNat + 2 ≤ 0xFFF → Completes (.ldB x) s fun t =>
        (Memory.wf s.params.font s.mem = true →
          (t.readByte s.index.toNat).toNat = (s.v x).toNat / 100 ∧
          (t.readByte (s.index.toNat + 1)).toNat = (s.v x).toNat / 10 % 10 ∧
          (t.readByte (s.index.toNat + 2)).toNat = (s.v x).toNat % 10) ∧
        (∀ a, a < s.index.toNat ∨ s.index.toNat + 2 < a → t.readByte a = s.readByte a) ∧
        t.pc = s.pc + 2#16 ∧ OnlyChanges [.mem, .pc] noRegs s t)

/-- R103, with the spec's decisions D3 and D19: Fx55 stores V0..Vx at I and nothing elsewhere, and moves I past them, or
faults having stored nothing. -/
def Obligations.RegistersAreStored : Prop :=
  ∀ x : RegIx, decode (0xF#4 ++ (x ++ 0x55#8)) = .ok (.storeRegs x) ∧
    ∀ s : State,
      (s.index.toNat + x.toNat > 0xFFF →
        Completes (.storeRegs x) s (FaultsWith (.memoryBoundsError s.index) s)) ∧
      (s.index.toNat + x.toNat ≤ 0xFFF → Completes (.storeRegs x) s fun t =>
        (Memory.wf s.params.font s.mem = true →
          ∀ j : RegIx, j.toNat ≤ x.toNat → t.readByte (s.index.toNat + j.toNat) = s.v j) ∧
        (∀ a, a < s.index.toNat ∨ s.index.toNat + x.toNat < a → t.readByte a = s.readByte a) ∧
        t.index.toNat = s.index.toNat + x.toNat + 1 ∧ t.pc = s.pc + 2#16 ∧
        OnlyChanges [.mem, .index, .pc] noRegs s t)

/-- R104, with the spec's decision D3: Fx65 loads V0..Vx from I, leaves the registers above x, and moves I, or faults
having loaded nothing. -/
def Obligations.RegistersAreLoaded : Prop :=
  ∀ x : RegIx, decode (0xF#4 ++ (x ++ 0x65#8)) = .ok (.loadRegs x) ∧
    ∀ s : State,
      (s.index.toNat + x.toNat > 0xFFF →
        Completes (.loadRegs x) s (FaultsWith (.memoryBoundsError s.index) s)) ∧
      (s.index.toNat + x.toNat ≤ 0xFFF → Completes (.loadRegs x) s fun t =>
        (∀ j : RegIx, j.toNat ≤ x.toNat → t.v j = s.readByte (s.index.toNat + j.toNat)) ∧
        t.index.toNat = s.index.toNat + x.toNat + 1 ∧ t.pc = s.pc + 2#16 ∧
        OnlyChanges [.index, .pc] (fun j => j.toNat ≤ x.toNat) s t)

/-- E6 of 95_test_vectors.md: a store and then a load from the same I restore V0..Vx, whatever was done to the registers
in between, and both move I alike. -/
def Obligations.StoreThenLoadRestoresRegisters : Prop :=
  ∀ (x : RegIx) (s : State), Memory.wf s.params.font s.mem = true → s.index.toNat + x.toNat ≤ 0xFFF →
    Completes (.storeRegs x) s fun t =>
      ∀ u : State, (∀ a, u.readByte a = t.readByte a) → u.index = s.index →
        Completes (.loadRegs x) u fun r =>
          (∀ j : RegIx, j.toNat ≤ x.toNat → r.v j = s.v j) ∧ r.index = t.index

/-- R54 (an inference the spec marks as its own): the bytes that Fx55 stores at the next pc are what the very next Step
fetches. -/
def Obligations.StoredBytesAreFetchedAtOnce : Prop :=
  ∀ (x j k : RegIx) (s : State), Memory.wf s.params.font s.mem = true → s.index.toNat + x.toNat ≤ 0xFFF →
    k.toNat = j.toNat + 1 → k.toNat ≤ x.toNat → s.pc.toNat + 2 = s.index.toNat + j.toNat →
    Completes (.storeRegs x) s fun t => t.fetch = some (s.v j ++ s.v k)

/-! ### Display (spec/43_display.md) -/

/-- R107: 00E0 makes every pixel 0 and sets draw_flag, whether or not a pixel changed. -/
def Obligations.ClearScreenClearsEveryPixel : Prop :=
  decode 0x00E0#16 = .ok .cls ∧
  ∀ s : State, Completes .cls s fun t =>
    (∀ px py, t.pixel px py = false) ∧ t.drawFlag = true ∧ t.pc = s.pc + 2#16 ∧
    OnlyChanges [.fb, .drawFlag, .pc] noRegs s t

/-- R105, R106 and R108, with the spec's decisions D8, D9 and D10 (the bit order is general knowledge, log entry 7):
Dxyn faults where its rows reach past 0xFFF; else, under `DRAW_EDGE = Fault`, where a set bit leaves the screen; else it
flips exactly the pixels its set bits cover, VF = 1 if and only if one of them was 1, and sets draw_flag. The coordinates
are V[x] and V[y] before VF is written. I is not changed. -/
def Obligations.DrawFlipsCoveredPixels : Prop :=
  ∀ (x y : RegIx) (n : Nibble), decode (0xD#4 ++ (x ++ (y ++ n))) = .ok (.drw x y n) ∧
    ∀ s : State,
      let X := (s.v x).toNat
      let Y := (s.v y).toNat
      (¬ InBounds s n.toNat → Completes (.drw x y n) s (FaultsWith (.memoryBoundsError s.index) s)) ∧
      (InBounds s n.toNat → s.params.drawEdge = .fault → SpriteLeavesScreen s n.toNat X Y →
        Completes (.drw x y n) s (FaultsWith (.drawBoundsError (s.v x) (s.v y)) s)) ∧
      (InBounds s n.toNat → ¬ (s.params.drawEdge = .fault ∧ SpriteLeavesScreen s n.toNat X Y) →
        Completes (.drw x y n) s fun t =>
          (∀ (px : Fin 64) (py : Fin 32),
            (SpriteCovers s n.toNat X Y px py → t.pixel px py = !s.pixel px py) ∧
            (¬ SpriteCovers s n.toNat X Y px py → t.pixel px py = s.pixel px py)) ∧
          ((∃ (px : Fin 64) (py : Fin 32), SpriteCovers s n.toNat X Y px py ∧ s.pixel px py = true) →
            t.v vF = 1#8) ∧
          ((∀ (px : Fin 64) (py : Fin 32), SpriteCovers s n.toNat X Y px py → s.pixel px py = false) →
            t.v vF = 0#8) ∧
          t.drawFlag = true ∧ t.pc = s.pc + 2#16 ∧ OnlyChanges [.fb, .drawFlag, .pc] (· = vF) s t)

/-- R109 (an inference the spec marks as its own): two identical draws with no other change of the framebuffer between
them restore it. The second reports a collision exactly when the first set some pixel, that is, when a set bit of the
sprite covers an on-screen pixel that was 0. This is narrower than R109's second sentence, which forgets the sprite all
of whose on-screen bits fall on set pixels: there R108 makes the FIRST draw report the collision (log entry 10). -/
def Obligations.DrawingTwiceRestoresTheScreen : Prop :=
  ∀ (x y : RegIx) (n : Nibble) (s t t' u : State),
    s.status = .running → exec (.drw x y n) s = .next t → t.isFaulted = false →
    t'.fb = t.fb → t'.index = s.index → t'.v x = s.v x → t'.v y = s.v y → t'.params = s.params →
    (∀ a, t'.readByte a = s.readByte a) → exec (.drw x y n) t' = .next u →
    u.fb = s.fb ∧
    ((∃ (px : Fin 64) (py : Fin 32),
        SpriteCovers s n.toNat (s.v x).toNat (s.v y).toNat px py ∧ s.pixel px py = false) →
      u.v vF = 1#8) ∧
    ((∀ (px : Fin 64) (py : Fin 32),
        SpriteCovers s n.toNat (s.v x).toNat (s.v y).toNat px py → s.pixel px py = true) →
      u.v vF = 0#8)

/-- R109 and C10 (an inference the spec marks as its own): a clear and then a draw that does not fault leave exactly the
sprite's pattern, clipped to the screen, and VF = 0. -/
def Obligations.ClearThenDrawShowsTheSprite : Prop :=
  ∀ (x y : RegIx) (n : Nibble) (s : State), s.status = .running →
    Completes .cls s fun t => ∀ u, exec (.drw x y n) t = .next u → u.isFaulted = false →
      (∀ (px : Fin 64) (py : Fin 32),
        u.pixel px py = true ↔ SpriteCovers s n.toNat (s.v x).toNat (s.v y).toNat px py) ∧
      u.v vF = 0#8

/-! ### Keys and timers (spec/44_keys_timers.md) -/

/-- R110 and R111, with the spec's decision D5: Ex9E and ExA1 skip by the key array, change nothing else, and fault for
an index above 15. -/
def Obligations.KeySkipsReadTheKeyArray : Prop :=
  ∀ x : RegIx,
    decode (0xE#4 ++ (x ++ 0x9E#8)) = .ok (.skp x) ∧ decode (0xE#4 ++ (x ++ 0xA1#8)) = .ok (.sknp x) ∧
    ∀ s : State,
      ((s.v x).toNat > 15 →
        Completes (.skp x) s (FaultsWith (.keyIndexError (s.v x)) s) ∧
        Completes (.sknp x) s (FaultsWith (.keyIndexError (s.v x)) s)) ∧
      (∀ pressed : Bool, s.keys[(s.v x).toNat]? = some pressed →
        (Completes (.skp x) s fun t =>
          t.pc = (if pressed then s.pc + 4#16 else s.pc + 2#16) ∧ OnlyChanges [.pc] noRegs s t) ∧
        (Completes (.sknp x) s fun t =>
          t.pc = (if pressed then s.pc + 2#16 else s.pc + 4#16) ∧ OnlyChanges [.pc] noRegs s t))

/-- R113, with the spec's decisions D14 and D30: Fx0A enters the wait and changes nothing else, whatever keys are already
pressed; a Step then changes nothing, a KeyUp only the key array, a Tick only the timers; the first KeyDown completes
it. -/
def Obligations.KeyWaitLastsUntilKeyDown : Prop :=
  ∀ x : RegIx, decode (0xF#4 ++ (x ++ 0x0A#8)) = .ok (.ldVxK x) ∧
    ∀ s : State, Completes (.ldVxK x) s fun t =>
      t.status = .waitKey x ∧ OnlyChanges [.status] noRegs s t ∧
      step t = .next t ∧
      (∀ k : KeyIx, (t.keyUp k).key k = false ∧ OnlyChanges [.keys] noRegs t (t.keyUp k)) ∧
      OnlyChanges [.dt, .st] noRegs t t.tick ∧
      (∀ k : KeyIx,
        (t.keyDown k).key k = true ∧ (∀ j, j ≠ k → (t.keyDown k).key j = t.key j) ∧
        ((t.keyDown k).v x).toNat = k.toNat ∧ (t.keyDown k).pc = t.pc + 2#16 ∧
        (t.keyDown k).status = .running ∧ OnlyChanges [.keys, .pc, .status] (· = x) t (t.keyDown k))

/-- R112, R114 and R115: Fx07 reads DT, Fx15 writes it, Fx18 writes ST; a zero stays at the next Tick, and the next Tick
beeps if and only if Fx18 wrote 1. -/
def Obligations.TimerRegistersAreReadAndWritten : Prop :=
  ∀ x : RegIx,
    decode (0xF#4 ++ (x ++ 0x07#8)) = .ok (.ldVxDt x) ∧ decode (0xF#4 ++ (x ++ 0x15#8)) = .ok (.ldDtVx x) ∧
    decode (0xF#4 ++ (x ++ 0x18#8)) = .ok (.ldStVx x) ∧
    ∀ s : State,
      (Completes (.ldVxDt x) s fun t =>
        t.v x = s.dt ∧ t.pc = s.pc + 2#16 ∧ OnlyChanges [.pc] (· = x) s t) ∧
      (Completes (.ldDtVx x) s fun t =>
        t.dt = s.v x ∧ (s.v x = 0#8 → t.tick.dt = 0#8) ∧ t.pc = s.pc + 2#16 ∧
        OnlyChanges [.dt, .pc] noRegs s t) ∧
      (Completes (.ldStVx x) s fun t =>
        t.st = s.v x ∧ (s.status = .running → (t.tickBeeps = true ↔ s.v x = 1#8)) ∧ t.pc = s.pc + 2#16 ∧
        OnlyChanges [.st, .pc] noRegs s t)

/-! ### Host operations (spec/60_exceptions.md, spec/70_reset_and_hazards.md) -/

/-- R126 and R127, with the spec's decisions D12 and D20: outside `Faulted` a Tick counts DT and ST down by one, zeros
stay, the decrement of DT to zero leaves 60 under `Reload60`, and Beep is emitted exactly when ST goes from 1 to 0. -/
def Obligations.TickCountsTimersDown : Prop :=
  ∀ s : State,
    (s.isFaulted = true → s.tick = s ∧ s.tickBeeps = false) ∧
    (s.isFaulted = false →
      (s.dt = 0#8 → s.tick.dt = 0#8) ∧
      (s.dt.toNat > 1 → s.tick.dt.toNat = s.dt.toNat - 1) ∧
      (s.dt = 1#8 → s.params.delayAtZero = .hold → s.tick.dt = 0#8) ∧
      (s.dt = 1#8 → s.params.delayAtZero = .reload60 → s.tick.dt = 60#8) ∧
      s.tick.st.toNat = s.st.toNat - 1 ∧
      (s.tickBeeps = true ↔ s.st.toNat = 1 ∧ s.tick.st.toNat = 0) ∧
      OnlyChanges [.dt, .st] noRegs s s.tick)

/-- What R126 and R151 say of a run of Ticks (an inference): under `Hold` DT goes down by the number of Ticks and stops
at 0; under `Reload60` a DT that is not 0 never becomes 0. -/
def Obligations.DelayTimerOverManyTicks : Prop :=
  ∀ (n : Nat) (s : State), s.isFaulted = false →
    ∃ (t : State) (os : List HostOutput), performAll (List.replicate n .tick) s = .next (t, os) ∧
      (s.params.delayAtZero = .hold → t.dt.toNat = s.dt.toNat - n) ∧
      (s.params.delayAtZero = .reload60 → s.dt ≠ 0#8 → t.dt ≠ 0#8) ∧
      t.st.toNat = s.st.toNat - n ∧ OnlyChanges [.dt, .st] noRegs s t

/-- R133, R134 and R135, with the spec's decision D14: KeyDown presses the key and completes a wait; KeyUp releases it
and completes none; DrawAck clears draw_flag; in `Faulted` none of them does anything. -/
def Obligations.KeyEventsAndDrawAck : Prop :=
  ∀ (s : State) (k : KeyIx),
    (s.isFaulted = true → s.keyDown k = s ∧ s.keyUp k = s ∧ s.drawAck = s) ∧
    (s.isFaulted = false →
      (∀ j, (s.keyDown k).key j = if j = k then true else s.key j) ∧
      (∀ j, (s.keyUp k).key j = if j = k then false else s.key j) ∧
      OnlyChanges [.keys] noRegs s (s.keyUp k) ∧
      s.drawAck.drawFlag = false ∧ OnlyChanges [.drawFlag] noRegs s s.drawAck) ∧
    (s.status = .running → OnlyChanges [.keys] noRegs s (s.keyDown k)) ∧
    (∀ x, s.status = .waitKey x →
      ((s.keyDown k).v x).toNat = k.toNat ∧ (s.keyDown k).pc = s.pc + 2#16 ∧
      (s.keyDown k).status = .running ∧ OnlyChanges [.keys, .pc, .status] (· = x) s (s.keyDown k))

/-- The boundary of R137 (the host's discipline on when to call it is not part of this statement): Load puts at most 3584
bytes at 0x200 and changes nothing else; a longer program is refused with no change. -/
def Obligations.LoadPlacesTheProgram : Prop :=
  ∀ (s : State) (bytes : List Byte),
    (bytes.length > 3584 → s.load bytes = none ∧ perform (.load bytes) s = .next (s, .loaded false)) ∧
    (bytes.length ≤ 3584 → ∃ t, s.load bytes = some t ∧ perform (.load bytes) s = .next (t, .loaded true) ∧
      (Memory.wf s.params.font s.mem = true →
        ∀ (k : Nat) (b : Byte), bytes[k]? = some b → t.readByte (0x200 + k) = b) ∧
      (∀ a, a < 0x200 ∨ 0x200 + bytes.length ≤ a → t.readByte a = s.readByte a) ∧
      OnlyChanges [.mem] noRegs s t)

/-- R44 and R146: after Reset and the Load of a program of at least two bytes, the first Step fetches its first two
bytes, high byte first. -/
def Obligations.FirstStepFetchesTheLoadedProgram : Prop :=
  ∀ (p : Params) (hi lo : Byte) (rest : List Byte), (hi :: lo :: rest).length ≤ 3584 →
    ∃ s, launch p (hi :: lo :: rest) = some s ∧ s.status = .running ∧ s.pc = 0x200#16 ∧
      s.fetch = some (hi ++ lo)

/-- R39, R143 and R145, with the spec's decision D29: Reset, from any state and in any status, gives every field its
value; memory reads as FONT and then zeros. -/
def Obligations.ResetGivesEveryFieldItsValue : Prop :=
  ∀ s : State,
    (∀ a (h : a < 80), s.hostReset.readByte a = s.params.font[a]) ∧
    (∀ a, 80 ≤ a → s.hostReset.readByte a = 0#8) ∧
    (∀ r, s.hostReset.v r = 0#8) ∧ s.hostReset.index = 0#16 ∧ s.hostReset.pc = 0x200#16 ∧
    (∀ j (h : j < 16), s.hostReset.stack[j] = 0#16) ∧ s.hostReset.sp.val = 0 ∧
    (∀ px py, s.hostReset.pixel px py = false) ∧ s.hostReset.drawFlag = false ∧
    s.hostReset.dt = 60#8 ∧ s.hostReset.st = 0#8 ∧ (∀ k, s.hostReset.key k = false) ∧
    s.hostReset.opcode = 0#16 ∧ s.hostReset.status = .running

/-- R118, with the spec's decision D15: in `Faulted`, any run of Steps, Ticks, key events, DrawAcks and Debug Dumps, of
any length, leaves the whole state as it is. -/
def Obligations.FaultedIsAbsorbing : Prop :=
  ∀ (ops : List HostOp) (s : State), s.isFaulted = true →
    (∀ op ∈ ops, op ≠ .reset ∧ ∀ bytes, op ≠ .load bytes) →
    ∃ os, performAll ops s = .next (s, os) ∧
      ∀ (k : Nat), ops[k]? = some .step → os[k]? = some (.stepResult s.status)

/-- R129: only a KeyDown (or Reset) ends a key wait, and meanwhile only the key array, the timers and draw_flag change
(memory too where the host Loads, which it never does after the first Step). -/
def Obligations.OnlyKeyDownOrResetEndsTheWait : Prop :=
  ∀ (op : HostOp) (s t : State) (o : HostOutput) (x : RegIx),
    s.status = .waitKey x → perform op s = .next (t, o) →
    (t.status = .waitKey x ∧ OnlyChanges [.keys, .dt, .st, .drawFlag, .mem] noRegs s t ∧
      ((∀ bytes, op ≠ .load bytes) → ∀ a, t.readByte a = s.readByte a)) ∨
    (t.status = .running ∧ ((∃ k, op = .keyDown k) ∨ op = .reset))

/-- What the host gets back (R127, R130, R131, R138, and H10 of 95_test_vectors.md): the status after a Step, whether a Tick
beeped, and a dump of the registers, pc, I, latch and status, from any state, that changes nothing. -/
def Obligations.HostGetsBackWhatItAskedFor : Prop :=
  ∀ s : State,
    (∃ t, step s = .next t ∧ perform .step s = .next (t, .stepResult t.status)) ∧
    (∃ beep : Bool, perform .tick s = .next (s.tick, .ticked beep) ∧
      (beep = true ↔ s.isFaulted = false ∧ s.st.toNat = 1)) ∧
    (∃ d : Snapshot, perform .debugDump s = .next (s, .dump d) ∧
      (∀ r : RegIx, d.regs[r.toNat]? = some (s.v r)) ∧ d.pc = s.pc ∧ d.index = s.index ∧
      d.opcode = s.opcode ∧ d.status = s.status)

/-- R27 and R136: what the Renderer reads is 2048 pixels, row-major, pixel (px, py) at index px + py*64. -/
def Obligations.RendererReadsPixelsRowMajor : Prop :=
  ∀ s : State, s.graphics.length = 2048 ∧
    ∀ (px : Fin 64) (py : Fin 32), s.graphics[px.val + py.val * 64]? = some (s.pixel px py)

/-! ### Whole-machine rules -/

/-- R23, R26 and R28: no instruction reads ST, draw_flag or a stack entry at or above sp, so two states that differ only
there stay so at every Step: no program can learn their values. -/
def Obligations.UnreadStateIsNeverObserved : Prop :=
  ∀ s s' t : State, AlikeToPrograms s s' → step s = .next t →
    ∃ t', step s' = .next t' ∧ AlikeToPrograms t t'

/-- R155, with the spec's decision D22: where a run has ended well, executing the self-jump changes nothing but the
opcode latch, and the run has still ended well. -/
def Obligations.SelfJumpChangesOnlyTheLatch : Prop :=
  ∀ s : State, EndsWell s →
    ∃ t, step s = .next t ∧ OnlyChanges [.opcode] noRegs s t ∧ EndsWell t
end

