-- ==== Sys2Proof/Laws/Decode.lean ====
section
/-! SUPPORT. The bits of the formats of R59, the fields read back from them, and the masks of the opcode table on them:
what a proof about encoding or decoding cites instead of unfolding an append. -/

namespace Sys2Proof.Laws

/-! ### Bits of a format -/

theorem formatA_getLsbD (op : Nibble) (nnn : Addr12) (i : Nat) :
    (formatA op nnn).getLsbD i = if i < 12 then nnn.getLsbD i else op.getLsbD (i - 12) :=
  BitVec.getLsbD_append

theorem append_byte_getLsbD (y : RegIx) (n : Nibble) (i : Nat) :
    BitVec.getLsbD (w := 8) (y ++ n) i = if i < 4 then n.getLsbD i else y.getLsbD (i - 4) :=
  BitVec.getLsbD_append

theorem formatXK_getLsbD (op : Nibble) (x : RegIx) (nn : Byte) (i : Nat) :
    (formatXK op x nn).getLsbD i =
      if i < 8 then nn.getLsbD i else if i < 12 then x.getLsbD (i - 8) else op.getLsbD (i - 12) := by
  have h : (formatXK op x nn).getLsbD i =
      if i < 12 then (x ++ nn).getLsbD i else op.getLsbD (i - 12) := BitVec.getLsbD_append
  rw [h, BitVec.getLsbD_append]
  split <;> split <;> first | rfl | omega

/-- Format XYN is format XK with the byte `y ++ n`. -/
theorem formatXYN_eq_formatXK (op : Nibble) (x y : RegIx) (n : Nibble) :
    formatXYN op x y n = formatXK op x (y ++ n) := rfl

/-! ### Fields of a format -/

@[simp] theorem opField_formatA (op : Nibble) (nnn : Addr12) : opField (formatA op nnn) = op := by
  apply BitVec.eq_of_getLsbD_eq
  intro i hi
  interval_cases i <;> simp [opField, formatA_getLsbD, -BitVec.getLsbD_eq_getElem]

@[simp] theorem nnnField_formatA (op : Nibble) (nnn : Addr12) :
    nnnField (formatA op nnn) = nnn := by
  apply BitVec.eq_of_getLsbD_eq
  intro i hi
  interval_cases i <;> simp [nnnField, formatA_getLsbD, -BitVec.getLsbD_eq_getElem]

@[simp] theorem opField_formatXK (op : Nibble) (x : RegIx) (nn : Byte) :
    opField (formatXK op x nn) = op := by
  apply BitVec.eq_of_getLsbD_eq
  intro i hi
  interval_cases i <;> simp [opField, formatXK_getLsbD, -BitVec.getLsbD_eq_getElem]

@[simp] theorem xField_formatXK (op : Nibble) (x : RegIx) (nn : Byte) :
    xField (formatXK op x nn) = x := by
  apply BitVec.eq_of_getLsbD_eq
  intro i hi
  interval_cases i <;> simp [xField, formatXK_getLsbD, -BitVec.getLsbD_eq_getElem]

@[simp] theorem nnField_formatXK (op : Nibble) (x : RegIx) (nn : Byte) :
    nnField (formatXK op x nn) = nn := by
  apply BitVec.eq_of_getLsbD_eq
  intro i hi
  interval_cases i <;> simp [nnField, formatXK_getLsbD, -BitVec.getLsbD_eq_getElem]

@[simp] theorem opField_formatXYN (op : Nibble) (x y : RegIx) (n : Nibble) :
    opField (formatXYN op x y n) = op := opField_formatXK op x (y ++ n)

@[simp] theorem xField_formatXYN (op : Nibble) (x y : RegIx) (n : Nibble) :
    xField (formatXYN op x y n) = x := xField_formatXK op x (y ++ n)

@[simp] theorem yField_formatXYN (op : Nibble) (x y : RegIx) (n : Nibble) :
    yField (formatXYN op x y n) = y := by
  apply BitVec.eq_of_getLsbD_eq
  intro i hi
  interval_cases i <;> simp [yField, formatXYN_eq_formatXK, formatXK_getLsbD, append_byte_getLsbD,
    -BitVec.getLsbD_eq_getElem]

@[simp] theorem nField_formatXYN (op : Nibble) (x y : RegIx) (n : Nibble) :
    nField (formatXYN op x y n) = n := by
  apply BitVec.eq_of_getLsbD_eq
  intro i hi
  interval_cases i <;> simp [nField, formatXYN_eq_formatXK, formatXK_getLsbD, append_byte_getLsbD,
    -BitVec.getLsbD_eq_getElem]

/-! ### A word from its fields -/

theorem formatA_of_fields (w : Word) : formatA (opField w) (nnnField w) = w := by
  apply BitVec.eq_of_getLsbD_eq
  intro i hi
  interval_cases i <;>
    simp [opField, nnnField, formatA_getLsbD, -BitVec.getLsbD_eq_getElem]

theorem formatXK_of_fields (w : Word) : formatXK (opField w) (xField w) (nnField w) = w := by
  apply BitVec.eq_of_getLsbD_eq
  intro i hi
  interval_cases i <;>
    simp [opField, xField, nnField, formatXK_getLsbD, -BitVec.getLsbD_eq_getElem]

theorem formatXYN_of_fields (w : Word) :
    formatXYN (opField w) (xField w) (yField w) (nField w) = w := by
  apply BitVec.eq_of_getLsbD_eq
  intro i hi
  interval_cases i <;>
    simp [opField, xField, yField, nField, formatXYN_eq_formatXK, formatXK_getLsbD,
      append_byte_getLsbD, -BitVec.getLsbD_eq_getElem]

/-! ### Masks on a format -/

@[simp] theorem formatA_and_family (op : Nibble) (nnn : Addr12) :
    formatA op nnn &&& 0xF000#16 = op.setWidth 16 <<< 12 := by
  apply BitVec.eq_of_getLsbD_eq
  intro i hi
  interval_cases i <;> simp [formatA_getLsbD, -BitVec.getLsbD_eq_getElem]

@[simp] theorem formatXK_and_family (op : Nibble) (x : RegIx) (nn : Byte) :
    formatXK op x nn &&& 0xF000#16 = op.setWidth 16 <<< 12 := by
  apply BitVec.eq_of_getLsbD_eq
  intro i hi
  interval_cases i <;> simp [formatXK_getLsbD, -BitVec.getLsbD_eq_getElem]

@[simp] theorem formatXK_and_lowByte (op : Nibble) (x : RegIx) (nn : Byte) :
    formatXK op x nn &&& 0x00FF#16 = nn.setWidth 16 := by
  apply BitVec.eq_of_getLsbD_eq
  intro i hi
  interval_cases i <;> simp [formatXK_getLsbD, -BitVec.getLsbD_eq_getElem]

@[simp] theorem formatXK_and_subByte (op : Nibble) (x : RegIx) (nn : Byte) :
    formatXK op x nn &&& 0xF0FF#16 = op.setWidth 16 <<< 12 ||| nn.setWidth 16 := by
  apply BitVec.eq_of_getLsbD_eq
  intro i hi
  interval_cases i <;> simp [formatXK_getLsbD, -BitVec.getLsbD_eq_getElem]

@[simp] theorem formatXYN_and_family (op : Nibble) (x y : RegIx) (n : Nibble) :
    formatXYN op x y n &&& 0xF000#16 = op.setWidth 16 <<< 12 :=
  formatXK_and_family op x (y ++ n)

@[simp] theorem formatXYN_and_lowNibble (op : Nibble) (x y : RegIx) (n : Nibble) :
    formatXYN op x y n &&& 0x000F#16 = n.setWidth 16 := by
  apply BitVec.eq_of_getLsbD_eq
  intro i hi
  interval_cases i <;> simp [formatXYN_eq_formatXK, formatXK_getLsbD, append_byte_getLsbD,
    -BitVec.getLsbD_eq_getElem]

@[simp] theorem formatXYN_and_subNibble (op : Nibble) (x y : RegIx) (n : Nibble) :
    formatXYN op x y n &&& 0xF00F#16 = op.setWidth 16 <<< 12 ||| n.setWidth 16 := by
  apply BitVec.eq_of_getLsbD_eq
  intro i hi
  interval_cases i <;> simp [formatXYN_eq_formatXK, formatXK_getLsbD, append_byte_getLsbD,
    -BitVec.getLsbD_eq_getElem]

/-! ### Bytes and words -/

theorem wordOfBytes_bytesOfWord (w : Word) :
    wordOfBytes (w.extractLsb' 8 8) (w.extractLsb' 0 8) = w := by
  have h (hi lo : Byte) (i : Nat) : (wordOfBytes hi lo).getLsbD i =
      if i < 8 then lo.getLsbD i else hi.getLsbD (i - 8) := BitVec.getLsbD_append
  apply BitVec.eq_of_getLsbD_eq
  intro i hi
  interval_cases i <;> simp [h, -BitVec.getLsbD_eq_getElem]

end Sys2Proof.Laws
end

