-- ==== Sys2Proof/Laws/State.lean ====
section
/-! SUPPORT. What each update of the state does to each field, true by unfolding: no later proof unfolds a record update.
After them the same for what reads the state (a register, a byte of memory, a pixel, a key). -/

namespace Sys2Proof.Machine

/-! ### setV -/

@[simp] theorem State.setV_mem (s : State) (i : RegIx) (b : Byte) : (s.setV i b).mem = s.mem := rfl

@[simp] theorem State.setV_index (s : State) (i : RegIx) (b : Byte) : (s.setV i b).index = s.index := rfl

@[simp] theorem State.setV_pc (s : State) (i : RegIx) (b : Byte) : (s.setV i b).pc = s.pc := rfl

@[simp] theorem State.setV_stack (s : State) (i : RegIx) (b : Byte) : (s.setV i b).stack = s.stack := rfl

@[simp] theorem State.setV_sp (s : State) (i : RegIx) (b : Byte) : (s.setV i b).sp = s.sp := rfl

@[simp] theorem State.setV_fb (s : State) (i : RegIx) (b : Byte) : (s.setV i b).fb = s.fb := rfl

@[simp] theorem State.setV_drawFlag (s : State) (i : RegIx) (b : Byte) : (s.setV i b).drawFlag = s.drawFlag := rfl

@[simp] theorem State.setV_dt (s : State) (i : RegIx) (b : Byte) : (s.setV i b).dt = s.dt := rfl

@[simp] theorem State.setV_st (s : State) (i : RegIx) (b : Byte) : (s.setV i b).st = s.st := rfl

@[simp] theorem State.setV_keys (s : State) (i : RegIx) (b : Byte) : (s.setV i b).keys = s.keys := rfl

@[simp] theorem State.setV_opcode (s : State) (i : RegIx) (b : Byte) : (s.setV i b).opcode = s.opcode := rfl

@[simp] theorem State.setV_status (s : State) (i : RegIx) (b : Byte) : (s.setV i b).status = s.status := rfl

@[simp] theorem State.setV_params (s : State) (i : RegIx) (b : Byte) : (s.setV i b).params = s.params := rfl

@[simp] theorem State.setV_draws (s : State) (i : RegIx) (b : Byte) : (s.setV i b).draws = s.draws := rfl

@[simp] theorem State.setV_readByte (s : State) (i : RegIx) (b : Byte) (c : Nat) :
    (s.setV i b).readByte c = s.readByte c := rfl

@[simp] theorem State.setV_pixel (s : State) (i : RegIx) (b : Byte) (px : Fin 64) (py : Fin 32) :
    (s.setV i b).pixel px py = s.pixel px py := rfl

@[simp] theorem State.setV_key (s : State) (i : RegIx) (b : Byte) (j : KeyIx) : (s.setV i b).key j = s.key j := rfl

/-! ### setRegsFrom -/

@[simp] theorem State.setRegsFrom_mem (s : State) (bs : List Byte) : (s.setRegsFrom bs).mem = s.mem := rfl

@[simp] theorem State.setRegsFrom_index (s : State) (bs : List Byte) : (s.setRegsFrom bs).index = s.index := rfl

@[simp] theorem State.setRegsFrom_pc (s : State) (bs : List Byte) : (s.setRegsFrom bs).pc = s.pc := rfl

@[simp] theorem State.setRegsFrom_stack (s : State) (bs : List Byte) : (s.setRegsFrom bs).stack = s.stack := rfl

@[simp] theorem State.setRegsFrom_sp (s : State) (bs : List Byte) : (s.setRegsFrom bs).sp = s.sp := rfl

@[simp] theorem State.setRegsFrom_fb (s : State) (bs : List Byte) : (s.setRegsFrom bs).fb = s.fb := rfl

@[simp] theorem State.setRegsFrom_drawFlag (s : State) (bs : List Byte) : (s.setRegsFrom bs).drawFlag = s.drawFlag := rfl

@[simp] theorem State.setRegsFrom_dt (s : State) (bs : List Byte) : (s.setRegsFrom bs).dt = s.dt := rfl

@[simp] theorem State.setRegsFrom_st (s : State) (bs : List Byte) : (s.setRegsFrom bs).st = s.st := rfl

@[simp] theorem State.setRegsFrom_keys (s : State) (bs : List Byte) : (s.setRegsFrom bs).keys = s.keys := rfl

@[simp] theorem State.setRegsFrom_opcode (s : State) (bs : List Byte) : (s.setRegsFrom bs).opcode = s.opcode := rfl

@[simp] theorem State.setRegsFrom_status (s : State) (bs : List Byte) : (s.setRegsFrom bs).status = s.status := rfl

@[simp] theorem State.setRegsFrom_params (s : State) (bs : List Byte) : (s.setRegsFrom bs).params = s.params := rfl

@[simp] theorem State.setRegsFrom_draws (s : State) (bs : List Byte) : (s.setRegsFrom bs).draws = s.draws := rfl

@[simp] theorem State.setRegsFrom_readByte (s : State) (bs : List Byte) (c : Nat) :
    (s.setRegsFrom bs).readByte c = s.readByte c := rfl

@[simp] theorem State.setRegsFrom_pixel (s : State) (bs : List Byte) (px : Fin 64) (py : Fin 32) :
    (s.setRegsFrom bs).pixel px py = s.pixel px py := rfl

@[simp] theorem State.setRegsFrom_key (s : State) (bs : List Byte) (j : KeyIx) : (s.setRegsFrom bs).key j = s.key j := rfl

/-! ### next -/

@[simp] theorem State.next_mem (s : State) : (s.next).mem = s.mem := rfl

@[simp] theorem State.next_regs (s : State) : (s.next).regs = s.regs := rfl

@[simp] theorem State.next_index (s : State) : (s.next).index = s.index := rfl

@[simp] theorem State.next_pc (s : State) : (s.next).pc = s.pc + 2#16 := rfl

@[simp] theorem State.next_stack (s : State) : (s.next).stack = s.stack := rfl

@[simp] theorem State.next_sp (s : State) : (s.next).sp = s.sp := rfl

@[simp] theorem State.next_fb (s : State) : (s.next).fb = s.fb := rfl

@[simp] theorem State.next_drawFlag (s : State) : (s.next).drawFlag = s.drawFlag := rfl

@[simp] theorem State.next_dt (s : State) : (s.next).dt = s.dt := rfl

@[simp] theorem State.next_st (s : State) : (s.next).st = s.st := rfl

@[simp] theorem State.next_keys (s : State) : (s.next).keys = s.keys := rfl

@[simp] theorem State.next_opcode (s : State) : (s.next).opcode = s.opcode := rfl

@[simp] theorem State.next_status (s : State) : (s.next).status = s.status := rfl

@[simp] theorem State.next_params (s : State) : (s.next).params = s.params := rfl

@[simp] theorem State.next_draws (s : State) : (s.next).draws = s.draws := rfl

@[simp] theorem State.next_v (s : State) (j : RegIx) : (s.next).v j = s.v j := rfl

@[simp] theorem State.next_readByte (s : State) (c : Nat) :
    (s.next).readByte c = s.readByte c := rfl

@[simp] theorem State.next_pixel (s : State) (px : Fin 64) (py : Fin 32) :
    (s.next).pixel px py = s.pixel px py := rfl

@[simp] theorem State.next_key (s : State) (j : KeyIx) : (s.next).key j = s.key j := rfl

/-! ### skip -/

@[simp] theorem State.skip_mem (s : State) : (s.skip).mem = s.mem := rfl

@[simp] theorem State.skip_regs (s : State) : (s.skip).regs = s.regs := rfl

@[simp] theorem State.skip_index (s : State) : (s.skip).index = s.index := rfl

@[simp] theorem State.skip_pc (s : State) : (s.skip).pc = s.pc + 4#16 := rfl

@[simp] theorem State.skip_stack (s : State) : (s.skip).stack = s.stack := rfl

@[simp] theorem State.skip_sp (s : State) : (s.skip).sp = s.sp := rfl

@[simp] theorem State.skip_fb (s : State) : (s.skip).fb = s.fb := rfl

@[simp] theorem State.skip_drawFlag (s : State) : (s.skip).drawFlag = s.drawFlag := rfl

@[simp] theorem State.skip_dt (s : State) : (s.skip).dt = s.dt := rfl

@[simp] theorem State.skip_st (s : State) : (s.skip).st = s.st := rfl

@[simp] theorem State.skip_keys (s : State) : (s.skip).keys = s.keys := rfl

@[simp] theorem State.skip_opcode (s : State) : (s.skip).opcode = s.opcode := rfl

@[simp] theorem State.skip_status (s : State) : (s.skip).status = s.status := rfl

@[simp] theorem State.skip_params (s : State) : (s.skip).params = s.params := rfl

@[simp] theorem State.skip_draws (s : State) : (s.skip).draws = s.draws := rfl

@[simp] theorem State.skip_v (s : State) (j : RegIx) : (s.skip).v j = s.v j := rfl

@[simp] theorem State.skip_readByte (s : State) (c : Nat) :
    (s.skip).readByte c = s.readByte c := rfl

@[simp] theorem State.skip_pixel (s : State) (px : Fin 64) (py : Fin 32) :
    (s.skip).pixel px py = s.pixel px py := rfl

@[simp] theorem State.skip_key (s : State) (j : KeyIx) : (s.skip).key j = s.key j := rfl

/-! ### jumpTo -/

@[simp] theorem State.jumpTo_mem (s : State) (a : Word) : (s.jumpTo a).mem = s.mem := rfl

@[simp] theorem State.jumpTo_regs (s : State) (a : Word) : (s.jumpTo a).regs = s.regs := rfl

@[simp] theorem State.jumpTo_index (s : State) (a : Word) : (s.jumpTo a).index = s.index := rfl

@[simp] theorem State.jumpTo_pc (s : State) (a : Word) : (s.jumpTo a).pc = a := rfl

@[simp] theorem State.jumpTo_stack (s : State) (a : Word) : (s.jumpTo a).stack = s.stack := rfl

@[simp] theorem State.jumpTo_sp (s : State) (a : Word) : (s.jumpTo a).sp = s.sp := rfl

@[simp] theorem State.jumpTo_fb (s : State) (a : Word) : (s.jumpTo a).fb = s.fb := rfl

@[simp] theorem State.jumpTo_drawFlag (s : State) (a : Word) : (s.jumpTo a).drawFlag = s.drawFlag := rfl

@[simp] theorem State.jumpTo_dt (s : State) (a : Word) : (s.jumpTo a).dt = s.dt := rfl

@[simp] theorem State.jumpTo_st (s : State) (a : Word) : (s.jumpTo a).st = s.st := rfl

@[simp] theorem State.jumpTo_keys (s : State) (a : Word) : (s.jumpTo a).keys = s.keys := rfl

@[simp] theorem State.jumpTo_opcode (s : State) (a : Word) : (s.jumpTo a).opcode = s.opcode := rfl

@[simp] theorem State.jumpTo_status (s : State) (a : Word) : (s.jumpTo a).status = s.status := rfl

@[simp] theorem State.jumpTo_params (s : State) (a : Word) : (s.jumpTo a).params = s.params := rfl

@[simp] theorem State.jumpTo_draws (s : State) (a : Word) : (s.jumpTo a).draws = s.draws := rfl

@[simp] theorem State.jumpTo_v (s : State) (a : Word) (j : RegIx) : (s.jumpTo a).v j = s.v j := rfl

@[simp] theorem State.jumpTo_readByte (s : State) (a : Word) (c : Nat) :
    (s.jumpTo a).readByte c = s.readByte c := rfl

@[simp] theorem State.jumpTo_pixel (s : State) (a : Word) (px : Fin 64) (py : Fin 32) :
    (s.jumpTo a).pixel px py = s.pixel px py := rfl

@[simp] theorem State.jumpTo_key (s : State) (a : Word) (j : KeyIx) : (s.jumpTo a).key j = s.key j := rfl

/-! ### raise -/

@[simp] theorem State.raise_mem (s : State) (f : Fault) : (s.raise f).mem = s.mem := rfl

@[simp] theorem State.raise_regs (s : State) (f : Fault) : (s.raise f).regs = s.regs := rfl

@[simp] theorem State.raise_index (s : State) (f : Fault) : (s.raise f).index = s.index := rfl

@[simp] theorem State.raise_pc (s : State) (f : Fault) : (s.raise f).pc = s.pc := rfl

@[simp] theorem State.raise_stack (s : State) (f : Fault) : (s.raise f).stack = s.stack := rfl

@[simp] theorem State.raise_sp (s : State) (f : Fault) : (s.raise f).sp = s.sp := rfl

@[simp] theorem State.raise_fb (s : State) (f : Fault) : (s.raise f).fb = s.fb := rfl

@[simp] theorem State.raise_drawFlag (s : State) (f : Fault) : (s.raise f).drawFlag = s.drawFlag := rfl

@[simp] theorem State.raise_dt (s : State) (f : Fault) : (s.raise f).dt = s.dt := rfl

@[simp] theorem State.raise_st (s : State) (f : Fault) : (s.raise f).st = s.st := rfl

@[simp] theorem State.raise_keys (s : State) (f : Fault) : (s.raise f).keys = s.keys := rfl

@[simp] theorem State.raise_opcode (s : State) (f : Fault) : (s.raise f).opcode = s.opcode := rfl

@[simp] theorem State.raise_status (s : State) (f : Fault) : (s.raise f).status = .faulted f s.pc s.opcode := rfl

@[simp] theorem State.raise_params (s : State) (f : Fault) : (s.raise f).params = s.params := rfl

@[simp] theorem State.raise_draws (s : State) (f : Fault) : (s.raise f).draws = s.draws := rfl

@[simp] theorem State.raise_v (s : State) (f : Fault) (j : RegIx) : (s.raise f).v j = s.v j := rfl

@[simp] theorem State.raise_readByte (s : State) (f : Fault) (c : Nat) :
    (s.raise f).readByte c = s.readByte c := rfl

@[simp] theorem State.raise_pixel (s : State) (f : Fault) (px : Fin 64) (py : Fin 32) :
    (s.raise f).pixel px py = s.pixel px py := rfl

@[simp] theorem State.raise_key (s : State) (f : Fault) (j : KeyIx) : (s.raise f).key j = s.key j := rfl

/-! ### latch -/

@[simp] theorem State.latch_mem (s : State) (w : Word) : (s.latch w).mem = s.mem := rfl

@[simp] theorem State.latch_regs (s : State) (w : Word) : (s.latch w).regs = s.regs := rfl

@[simp] theorem State.latch_index (s : State) (w : Word) : (s.latch w).index = s.index := rfl

@[simp] theorem State.latch_pc (s : State) (w : Word) : (s.latch w).pc = s.pc := rfl

@[simp] theorem State.latch_stack (s : State) (w : Word) : (s.latch w).stack = s.stack := rfl

@[simp] theorem State.latch_sp (s : State) (w : Word) : (s.latch w).sp = s.sp := rfl

@[simp] theorem State.latch_fb (s : State) (w : Word) : (s.latch w).fb = s.fb := rfl

@[simp] theorem State.latch_drawFlag (s : State) (w : Word) : (s.latch w).drawFlag = s.drawFlag := rfl

@[simp] theorem State.latch_dt (s : State) (w : Word) : (s.latch w).dt = s.dt := rfl

@[simp] theorem State.latch_st (s : State) (w : Word) : (s.latch w).st = s.st := rfl

@[simp] theorem State.latch_keys (s : State) (w : Word) : (s.latch w).keys = s.keys := rfl

@[simp] theorem State.latch_opcode (s : State) (w : Word) : (s.latch w).opcode = w := rfl

@[simp] theorem State.latch_status (s : State) (w : Word) : (s.latch w).status = s.status := rfl

@[simp] theorem State.latch_params (s : State) (w : Word) : (s.latch w).params = s.params := rfl

@[simp] theorem State.latch_draws (s : State) (w : Word) : (s.latch w).draws = s.draws := rfl

@[simp] theorem State.latch_v (s : State) (w : Word) (j : RegIx) : (s.latch w).v j = s.v j := rfl

@[simp] theorem State.latch_readByte (s : State) (w : Word) (c : Nat) :
    (s.latch w).readByte c = s.readByte c := rfl

@[simp] theorem State.latch_pixel (s : State) (w : Word) (px : Fin 64) (py : Fin 32) :
    (s.latch w).pixel px py = s.pixel px py := rfl

@[simp] theorem State.latch_key (s : State) (w : Word) (j : KeyIx) : (s.latch w).key j = s.key j := rfl

/-! ### writeByte -/

@[simp] theorem State.writeByte_mem (s : State) (a : Nat) (b : Byte) : (s.writeByte a b).mem = Memory.write s.params.font a b s.mem := rfl

@[simp] theorem State.writeByte_regs (s : State) (a : Nat) (b : Byte) : (s.writeByte a b).regs = s.regs := rfl

@[simp] theorem State.writeByte_index (s : State) (a : Nat) (b : Byte) : (s.writeByte a b).index = s.index := rfl

@[simp] theorem State.writeByte_pc (s : State) (a : Nat) (b : Byte) : (s.writeByte a b).pc = s.pc := rfl

@[simp] theorem State.writeByte_stack (s : State) (a : Nat) (b : Byte) : (s.writeByte a b).stack = s.stack := rfl

@[simp] theorem State.writeByte_sp (s : State) (a : Nat) (b : Byte) : (s.writeByte a b).sp = s.sp := rfl

@[simp] theorem State.writeByte_fb (s : State) (a : Nat) (b : Byte) : (s.writeByte a b).fb = s.fb := rfl

@[simp] theorem State.writeByte_drawFlag (s : State) (a : Nat) (b : Byte) : (s.writeByte a b).drawFlag = s.drawFlag := rfl

@[simp] theorem State.writeByte_dt (s : State) (a : Nat) (b : Byte) : (s.writeByte a b).dt = s.dt := rfl

@[simp] theorem State.writeByte_st (s : State) (a : Nat) (b : Byte) : (s.writeByte a b).st = s.st := rfl

@[simp] theorem State.writeByte_keys (s : State) (a : Nat) (b : Byte) : (s.writeByte a b).keys = s.keys := rfl

@[simp] theorem State.writeByte_opcode (s : State) (a : Nat) (b : Byte) : (s.writeByte a b).opcode = s.opcode := rfl

@[simp] theorem State.writeByte_status (s : State) (a : Nat) (b : Byte) : (s.writeByte a b).status = s.status := rfl

@[simp] theorem State.writeByte_params (s : State) (a : Nat) (b : Byte) : (s.writeByte a b).params = s.params := rfl

@[simp] theorem State.writeByte_draws (s : State) (a : Nat) (b : Byte) : (s.writeByte a b).draws = s.draws := rfl

@[simp] theorem State.writeByte_v (s : State) (a : Nat) (b : Byte) (j : RegIx) : (s.writeByte a b).v j = s.v j := rfl

@[simp] theorem State.writeByte_pixel (s : State) (a : Nat) (b : Byte) (px : Fin 64) (py : Fin 32) :
    (s.writeByte a b).pixel px py = s.pixel px py := rfl

@[simp] theorem State.writeByte_key (s : State) (a : Nat) (b : Byte) (j : KeyIx) : (s.writeByte a b).key j = s.key j := rfl

/-! ### setKey -/

@[simp] theorem State.setKey_mem (s : State) (k : KeyIx) (b : Bool) : (s.setKey k b).mem = s.mem := rfl

@[simp] theorem State.setKey_regs (s : State) (k : KeyIx) (b : Bool) : (s.setKey k b).regs = s.regs := rfl

@[simp] theorem State.setKey_index (s : State) (k : KeyIx) (b : Bool) : (s.setKey k b).index = s.index := rfl

@[simp] theorem State.setKey_pc (s : State) (k : KeyIx) (b : Bool) : (s.setKey k b).pc = s.pc := rfl

@[simp] theorem State.setKey_stack (s : State) (k : KeyIx) (b : Bool) : (s.setKey k b).stack = s.stack := rfl

@[simp] theorem State.setKey_sp (s : State) (k : KeyIx) (b : Bool) : (s.setKey k b).sp = s.sp := rfl

@[simp] theorem State.setKey_fb (s : State) (k : KeyIx) (b : Bool) : (s.setKey k b).fb = s.fb := rfl

@[simp] theorem State.setKey_drawFlag (s : State) (k : KeyIx) (b : Bool) : (s.setKey k b).drawFlag = s.drawFlag := rfl

@[simp] theorem State.setKey_dt (s : State) (k : KeyIx) (b : Bool) : (s.setKey k b).dt = s.dt := rfl

@[simp] theorem State.setKey_st (s : State) (k : KeyIx) (b : Bool) : (s.setKey k b).st = s.st := rfl

@[simp] theorem State.setKey_opcode (s : State) (k : KeyIx) (b : Bool) : (s.setKey k b).opcode = s.opcode := rfl

@[simp] theorem State.setKey_status (s : State) (k : KeyIx) (b : Bool) : (s.setKey k b).status = s.status := rfl

@[simp] theorem State.setKey_params (s : State) (k : KeyIx) (b : Bool) : (s.setKey k b).params = s.params := rfl

@[simp] theorem State.setKey_draws (s : State) (k : KeyIx) (b : Bool) : (s.setKey k b).draws = s.draws := rfl

@[simp] theorem State.setKey_v (s : State) (k : KeyIx) (b : Bool) (j : RegIx) : (s.setKey k b).v j = s.v j := rfl

@[simp] theorem State.setKey_readByte (s : State) (k : KeyIx) (b : Bool) (c : Nat) :
    (s.setKey k b).readByte c = s.readByte c := rfl

@[simp] theorem State.setKey_pixel (s : State) (k : KeyIx) (b : Bool) (px : Fin 64) (py : Fin 32) :
    (s.setKey k b).pixel px py = s.pixel px py := rfl

/-! ### draw -/

@[simp] theorem State.draw_mem (s : State) (rows : List Byte) (X Y : Nat) : (s.draw rows X Y).mem = s.mem := rfl

@[simp] theorem State.draw_index (s : State) (rows : List Byte) (X Y : Nat) : (s.draw rows X Y).index = s.index := rfl

@[simp] theorem State.draw_pc (s : State) (rows : List Byte) (X Y : Nat) : (s.draw rows X Y).pc = s.pc := rfl

@[simp] theorem State.draw_stack (s : State) (rows : List Byte) (X Y : Nat) : (s.draw rows X Y).stack = s.stack := rfl

@[simp] theorem State.draw_sp (s : State) (rows : List Byte) (X Y : Nat) : (s.draw rows X Y).sp = s.sp := rfl

@[simp] theorem State.draw_fb (s : State) (rows : List Byte) (X Y : Nat) : (s.draw rows X Y).fb = s.fb.xor (spriteMask rows X Y) := rfl

@[simp] theorem State.draw_drawFlag (s : State) (rows : List Byte) (X Y : Nat) : (s.draw rows X Y).drawFlag = true := rfl

@[simp] theorem State.draw_dt (s : State) (rows : List Byte) (X Y : Nat) : (s.draw rows X Y).dt = s.dt := rfl

@[simp] theorem State.draw_st (s : State) (rows : List Byte) (X Y : Nat) : (s.draw rows X Y).st = s.st := rfl

@[simp] theorem State.draw_keys (s : State) (rows : List Byte) (X Y : Nat) : (s.draw rows X Y).keys = s.keys := rfl

@[simp] theorem State.draw_opcode (s : State) (rows : List Byte) (X Y : Nat) : (s.draw rows X Y).opcode = s.opcode := rfl

@[simp] theorem State.draw_status (s : State) (rows : List Byte) (X Y : Nat) : (s.draw rows X Y).status = s.status := rfl

@[simp] theorem State.draw_params (s : State) (rows : List Byte) (X Y : Nat) : (s.draw rows X Y).params = s.params := rfl

@[simp] theorem State.draw_draws (s : State) (rows : List Byte) (X Y : Nat) : (s.draw rows X Y).draws = s.draws := rfl

@[simp] theorem State.draw_readByte (s : State) (rows : List Byte) (X Y : Nat) (c : Nat) :
    (s.draw rows X Y).readByte c = s.readByte c := rfl

@[simp] theorem State.draw_key (s : State) (rows : List Byte) (X Y : Nat) (j : KeyIx) : (s.draw rows X Y).key j = s.key j := rfl

end Sys2Proof.Machine
end

