-- ==== Sys2Proof/Laws/Memory.lean ====
section
/-! SUPPORT. Memory: a read after a write, and the canonical form, which every memory operation keeps. -/

namespace Sys2Proof.Machine

/-! ### The list of cells -/

theorem Memory.above_of_lt {a b : Nat} {m : Memory} (hab : a < b) (h : Memory.above b m = true) :
    Memory.above a m = true := by
  cases m with
  | nil => rfl
  | cons c m => simp only [Memory.above, decide_eq_true_eq] at h ⊢; omega

theorem Memory.listed_eq_none_of_above {font : Vector Byte fontSize} {a : Nat} {m : Memory}
    (hwf : Memory.wf font m = true) (h : Memory.above a m = true) : Memory.listed a m = none := by
  induction m with
  | nil => rfl
  | cons c m ih =>
    simp only [Memory.wf, Memory.above, Bool.and_eq_true, decide_eq_true_eq] at hwf h
    have hne : ¬ c.1 = a := by omega
    simp only [Memory.listed, hne, if_false]
    exact ih hwf.2 (Memory.above_of_lt h hwf.1.2)

theorem Memory.listed_put (font : Vector Byte fontSize) (a b : Nat) (v : Byte) (m : Memory) (hb : b ≠ a) :
    Memory.listed b (Memory.put font a v m) = Memory.listed b m := by
  unfold Memory.put
  split
  · rfl
  · simp [Memory.listed, Ne.symm hb]

/-- What putting a cell before a list above it makes the address read as. -/
theorem Memory.read_put_same {font : Vector Byte fontSize} {a : Nat} {v : Byte} {m : Memory}
    (hwf : Memory.wf font m = true) (h : Memory.above a m = true) :
    Memory.read font (Memory.put font a v m) a = v := by
  unfold Memory.put
  split
  · next hv => simp [Memory.read, Memory.listed_eq_none_of_above hwf h, hv]
  · simp [Memory.read, Memory.listed]

/-- A write leaves every other address as it was. -/
theorem Memory.read_write_other (font : Vector Byte fontSize) (a b : Nat) (v : Byte) (m : Memory) (hb : b ≠ a) :
    Memory.read font (Memory.write font a v m) b = Memory.read font m b := by
  unfold Memory.read
  congr 1
  induction m with
  | nil => exact Memory.listed_put font a b v [] hb
  | cons c m ih =>
    unfold Memory.write
    split
    · exact Memory.listed_put font a b v _ hb
    · split
      · next hc => rw [Memory.listed_put font a b v m hb]; simp [Memory.listed, ← hc, Ne.symm hb]
      · simp only [Memory.listed, ih]

/-- An address reads as the value written to it. -/
theorem Memory.read_write_same {font : Vector Byte fontSize} {m : Memory} (hwf : Memory.wf font m = true)
    (a : Nat) (v : Byte) : Memory.read font (Memory.write font a v m) a = v := by
  induction m with
  | nil => exact Memory.read_put_same rfl rfl
  | cons c m ih =>
    have hwf' := hwf
    simp only [Memory.wf, Bool.and_eq_true, decide_eq_true_eq] at hwf'
    unfold Memory.write
    split
    · next h => exact Memory.read_put_same hwf (by simpa [Memory.above] using h)
    · split
      · next h => exact Memory.read_put_same hwf'.2 (h ▸ hwf'.1.2)
      · next h =>
        have hne : ¬ c.1 = a := fun e => h e.symm
        simpa [Memory.read, Memory.listed, hne] using ih hwf'.2

theorem Memory.wf_put {font : Vector Byte fontSize} {a : Nat} {v : Byte} {m : Memory}
    (ha : a < memSize) (hwf : Memory.wf font m = true) (h : Memory.above a m = true) :
    Memory.wf font (Memory.put font a v m) = true := by
  unfold Memory.put
  split
  · exact hwf
  · next hv => simp [Memory.wf, ha, hwf, h, hv]

theorem Memory.above_write {font : Vector Byte fontSize} {a b : Nat} {v : Byte} {m : Memory}
    (hab : b < a) (h : Memory.above b m = true) (hwf : Memory.wf font m = true) :
    Memory.above b (Memory.write font a v m) = true := by
  cases m with
  | nil => unfold Memory.write Memory.put; split <;> simp [Memory.above, hab]
  | cons c m =>
    simp only [Memory.wf, Bool.and_eq_true, decide_eq_true_eq] at hwf
    unfold Memory.write
    split
    · unfold Memory.put; split
      · exact h
      · simpa [Memory.above] using hab
    · split
      · next hc =>
        unfold Memory.put; split
        · exact Memory.above_of_lt (by omega) hwf.1.2
        · simpa [Memory.above] using hab
      · simpa [Memory.above] using h

/-- A write in the address space keeps the canonical form. -/
theorem Memory.wf_write {font : Vector Byte fontSize} {a : Nat} {v : Byte} {m : Memory}
    (ha : a < memSize) (hwf : Memory.wf font m = true) :
    Memory.wf font (Memory.write font a v m) = true := by
  induction m with
  | nil => exact Memory.wf_put ha rfl rfl
  | cons c m ih =>
    have hwf' := hwf
    simp only [Memory.wf, Bool.and_eq_true, decide_eq_true_eq] at hwf'
    unfold Memory.write
    split
    · next h => exact Memory.wf_put ha hwf (by simpa [Memory.above] using h)
    · split
      · next h => exact Memory.wf_put ha hwf'.2 (h ▸ hwf'.1.2)
      · next h1 h2 =>
        have hca : c.1 < a := by omega
        simp [Memory.wf, hwf'.1.1.1, hwf'.1.1.2, Memory.above_write hca hwf'.1.2 hwf'.2, ih hwf'.2]

/-! ### Bytes of a state -/

/-- The memory of `s` is in its canonical form. -/
abbrev State.MemoryWf (s : State) : Prop := Memory.wf s.params.font s.mem = true

theorem State.resetWith_memoryWf (p : Params) : (State.resetWith p).MemoryWf := rfl

theorem State.reset_memoryWf : State.reset.MemoryWf := rfl

theorem State.writeByte_memoryWf {s : State} (h : s.MemoryWf) {a : Nat} (ha : a < memSize) (b : Byte) :
    (s.writeByte a b).MemoryWf := Memory.wf_write ha h

theorem State.readByte_writeByte_same {s : State} (h : s.MemoryWf) (a : Nat) (b : Byte) :
    (s.writeByte a b).readByte a = b := Memory.read_write_same h a b

theorem State.readByte_writeByte_other (s : State) {a c : Nat} (b : Byte) (hc : c ≠ a) :
    (s.writeByte a b).readByte c = s.readByte c := Memory.read_write_other _ a c b _ hc

/-- `writeBytes` changes memory alone. -/
theorem State.writeBytes_eq (s : State) (a : Nat) (bs : List Byte) :
    s.writeBytes a bs = { s with mem := (s.writeBytes a bs).mem } := by
  induction bs generalizing s a with
  | nil => rfl
  | cons b bs ih => simp only [State.writeBytes]; rw [ih]; rfl

theorem State.writeBytes_memoryWf {s : State} (h : s.MemoryWf) {a : Nat} {bs : List Byte}
    (ha : a + bs.length ≤ memSize) : (s.writeBytes a bs).MemoryWf := by
  induction bs generalizing s a with
  | nil => exact h
  | cons b bs ih =>
    simp only [List.length_cons] at ha
    exact ih (State.writeByte_memoryWf h (by omega) b) (by omega)

/-- An address outside the bytes written reads as before. -/
theorem State.readByte_writeBytes_other (s : State) {a c : Nat} {bs : List Byte}
    (hc : c < a ∨ a + bs.length ≤ c) : (s.writeBytes a bs).readByte c = s.readByte c := by
  induction bs generalizing s a with
  | nil => rfl
  | cons b bs ih =>
    simp only [List.length_cons] at hc
    simp only [State.writeBytes]
    rw [ih _ (by omega)]
    exact State.readByte_writeByte_other s b (by omega)

/-- The bytes written read back. -/
theorem State.readByte_writeBytes_same {s : State} (h : s.MemoryWf) {a : Nat} {bs : List Byte}
    (ha : a + bs.length ≤ memSize) {k : Nat} (hk : k < bs.length) :
    (s.writeBytes a bs).readByte (a + k) = bs[k] := by
  induction bs generalizing s a k with
  | nil => exact absurd hk (Nat.not_lt_zero k)
  | cons b bs ih =>
    simp only [List.length_cons] at ha hk
    have hwf := State.writeByte_memoryWf h (a := a) (by omega) b
    cases k with
    | zero =>
      simp only [State.writeBytes, Nat.add_zero, List.getElem_cons_zero]
      rw [State.readByte_writeBytes_other _ (Or.inl (Nat.lt_succ_self a))]
      exact State.readByte_writeByte_same h a b
    | succ k =>
      have := ih hwf (a := a + 1) (k := k) (by omega) (by omega)
      simpa [State.writeBytes, Nat.add_assoc, Nat.add_comm 1 k] using this

/-! ### Accesses of several bytes -/

theorem outOfBounds_iff (addr : Word) (n : Nat) :
    outOfBounds addr n = true ↔ 0 < n ∧ addr.toNat + n - 1 > 0xFFF := by
  simp [outOfBounds]

theorem outOfBounds_eq_false (addr : Word) (n : Nat) :
    outOfBounds addr n = false ↔ n = 0 ∨ addr.toNat + n ≤ memSize := by
  have hm : memSize = 4096 := rfl
  rw [← Bool.not_eq_true, outOfBounds_iff]
  omega

/-- All `memRead` can do (R45). -/
theorem State.memRead_eq (s : State) (addr : Word) (n : Nat) :
    s.memRead addr n =
      if 0 < n ∧ addr.toNat + n - 1 > 0xFFF then none
      else some ((List.range n).map (fun k => s.readByte (addr.toNat + k))) := by
  simp [State.memRead, outOfBounds]

/-- All `memWrite` can do (R45). -/
theorem State.memWrite_eq (s : State) (addr : Word) (bs : List Byte) :
    s.memWrite addr bs =
      if 0 < bs.length ∧ addr.toNat + bs.length - 1 > 0xFFF then none
      else some (s.writeBytes addr.toNat bs) := by
  simp [State.memWrite, outOfBounds]

/-- A write that is in bounds keeps the canonical form. -/
theorem State.memWrite_memoryWf {s t : State} {addr : Word} {bs : List Byte} (h : s.MemoryWf)
    (hw : s.memWrite addr bs = some t) : t.MemoryWf := by
  rw [State.memWrite_eq] at hw
  split at hw
  · cases hw
  · next hb =>
    cases hw
    cases bs with
    | nil => exact h
    | cons b bs =>
      refine State.writeBytes_memoryWf h ?_
      have hm : memSize = 4096 := rfl
      simp only [List.length_cons] at hb ⊢
      omega

/-- All `fetch` can do (R63). -/
theorem State.fetch_eq (s : State) :
    s.fetch =
      if s.pc.toNat + 1 > 0xFFF then none
      else some (wordOfBytes (s.readByte s.pc.toNat) (s.readByte (s.pc.toNat + 1))) := by
  unfold State.fetch
  rw [State.memRead_eq]
  by_cases h : s.pc.toNat + 1 > 0xFFF
  · simp [h]
  · simp [h, List.range_succ]

end Sys2Proof.Machine
end

