-- ==== Sys2Proof/Laws/Ops.lean ====
section
/-! SUPPORT. Registers, stack, skips and the flag writes: what each shared operation answers and leaves unchanged. -/

namespace Sys2Proof.Machine

/-! ### General registers -/

theorem State.v_setV (s : State) (i j : RegIx) (b : Byte) :
    (s.setV i b).v j = if i = j then b else s.v j := by
  unfold State.v State.setV
  simp only [Vector.getElem_set, BitVec.toNat_inj]

@[simp] theorem State.v_setV_same (s : State) (i : RegIx) (b : Byte) : (s.setV i b).v i = b := by
  simp [State.v_setV]

theorem State.v_setV_other (s : State) {i j : RegIx} (b : Byte) (h : j ≠ i) : (s.setV i b).v j = s.v j := by
  simp [State.v_setV, Ne.symm h]

/-- Two states whose registers read alike have the same registers. -/
theorem State.regs_ext {s t : State} (h : ∀ i, s.v i = t.v i) : s.regs = t.regs := by
  apply Vector.ext
  intro i hi
  have := h (BitVec.ofNat 4 i)
  unfold State.v at this
  simpa [Nat.mod_eq_of_lt hi] using this

/-- `V[0] .. V[x]` is x + 1 bytes. -/
theorem State.regsUpTo_length (s : State) (x : RegIx) : (s.regsUpTo x).length = x.toNat + 1 := by
  have := x.isLt
  simp [State.regsUpTo]; omega

theorem State.regsUpTo_getElem (s : State) (x j : RegIx) (h : j.toNat < (s.regsUpTo x).length) :
    (s.regsUpTo x)[j.toNat] = s.v j := by
  simp [State.regsUpTo, State.v]

theorem State.v_setRegsFrom (s : State) (bs : List Byte) (j : RegIx) :
    (s.setRegsFrom bs).v j = bs[j.toNat]?.getD (s.v j) := by
  simp [State.setRegsFrom, State.v]

/-! ### Skips -/

theorem State.skipIf_eq (s : State) (c : Bool) :
    s.skipIf c = { s with pc := s.pc + if c then 4#16 else 2#16 } := by
  cases c <;> rfl

/-! ### Stack -/

/-- All `push` can do. -/
theorem State.push_cases (s : State) (a : Word) :
    (s.sp.val = 16 ∧ s.push a = none) ∨
    ∃ h : s.sp.val < 16, s.push a =
      some { s with stack := s.stack.set s.sp.val a h, sp := ⟨s.sp.val + 1, by omega⟩ } := by
  have hsp := s.sp.isLt
  by_cases h : s.sp.val < 16
  · exact .inr ⟨h, by simp [State.push, h]⟩
  · exact .inl ⟨by omega, by simp [State.push, h]⟩

/-- All `pop` can do. -/
theorem State.pop_cases (s : State) :
    (s.sp.val = 0 ∧ s.pop = none) ∨
    ∃ h : 0 < s.sp.val, s.pop =
      some (s.stack[s.sp.val - 1]'(by have := s.sp.isLt; omega), { s with sp := ⟨s.sp.val - 1, by omega⟩ }) := by
  by_cases h : 0 < s.sp.val
  · exact .inr ⟨h, by simp [State.pop, h]⟩
  · exact .inl ⟨by omega, by simp [State.pop, h]⟩

/-! ### The result and flag writes (R85) -/

/-- The result and flag writes change the registers alone. -/
theorem State.writeResultAndFlag_eq (s : State) (x y : RegIx) (result flag : Byte → Byte → Byte) :
    s.writeResultAndFlag x y result flag =
      { s with regs := (s.writeResultAndFlag x y result flag).regs } := by
  unfold State.writeResultAndFlag
  cases s.params.vfWriteOrder <;> rfl

/-- Under `FlagFirst` the result is computed from the registers after the flag write, and wins where x = F. -/
theorem State.v_writeResultAndFlag_flagFirst {s : State} (h : s.params.vfWriteOrder = .flagFirst)
    (x y : RegIx) (result flag : Byte → Byte → Byte) (j : RegIx) :
    (s.writeResultAndFlag x y result flag).v j =
      if x = j then
        result (if vF = x then flag (s.v x) (s.v y) else s.v x) (if vF = y then flag (s.v x) (s.v y) else s.v y)
      else if vF = j then flag (s.v x) (s.v y)
      else s.v j := by
  simp only [State.writeResultAndFlag, h, State.v_setV]

/-- Under `FlagLast` both are computed from the old registers, and the flag wins where x = F. -/
theorem State.v_writeResultAndFlag_flagLast {s : State} (h : s.params.vfWriteOrder = .flagLast)
    (x y : RegIx) (result flag : Byte → Byte → Byte) (j : RegIx) :
    (s.writeResultAndFlag x y result flag).v j =
      if vF = j then flag (s.v x) (s.v y)
      else if x = j then result (s.v x) (s.v y)
      else s.v j := by
  simp only [State.writeResultAndFlag, h, State.v_setV]

end Sys2Proof.Machine
end

