-- ==== Sys2Proof/Laws/Display.lean ====
section
/-! SUPPORT. Sprites and the framebuffer pixel by pixel: the row-wise operations of the model in the terms of R105, R106
and R108. -/

namespace Sys2Proof.Machine

/-- Column px of a sprite row drawn at column X is sprite bit px - X; nothing wraps (R105, R106). -/
theorem spriteRow_getMsbD (row : Byte) (X px : Nat) :
    (spriteRow row X).getMsbD px = (decide (px < 64) && decide (X ≤ px) && spriteBit row (px - X)) := by
  have h (i : Nat) : (row ++ 0#56).getMsbD i = spriteBit row i := by
    unfold spriteBit
    rw [BitVec.getMsbD_append]
    by_cases hi : i < 8
    · simp [hi]
    · simp [BitVec.getMsbD_of_ge row i (by omega)]
  unfold spriteRow
  rw [BitVec.getMsbD_ushiftRight]
  by_cases hX : X ≤ px
  · simp [show ¬ px < X by omega, hX, h]
  · simp [show px < X by omega, hX]

/-- A pixel that a sprite covers with a set bit: row r = py - Y of the sprite exists and its bit px - X is set. -/
theorem spriteMask_getMsbD (rows : List Byte) (X Y : Nat) (px : Fin 64) (py : Fin 32) :
    (spriteMask rows X Y py).getMsbD px =
      (decide (Y ≤ py.val) && decide (X ≤ px.val) && spriteBit (rows[py.val - Y]?.getD 0#8) (px.val - X)) := by
  unfold spriteMask
  by_cases hY : Y ≤ py.val
  · simp [hY, spriteRow_getMsbD, px.isLt]
  · simp [hY]

@[simp] theorem Framebuffer.pixel_clear (px : Fin 64) (py : Fin 32) :
    Framebuffer.clear.pixel px py = false := by
  simp [Framebuffer.clear, Framebuffer.pixel]

@[simp] theorem Framebuffer.pixel_xor (fb : Framebuffer) (mask : Nat → BitVec 64) (px : Fin 64) (py : Fin 32) :
    (fb.xor mask).pixel px py = (fb.pixel px py ^^ (mask py).getMsbD px) := by
  simp [Framebuffer.xor, Framebuffer.pixel]

theorem bits_ne_zero_iff (b : BitVec 64) : b ≠ 0#64 ↔ ∃ px : Fin 64, b.getMsbD px = true := by
  constructor
  · intro h
    by_contra hno
    simp only [not_exists, Bool.not_eq_true] at hno
    exact h (BitVec.eq_of_getMsbD_eq fun i hi => by simpa using hno ⟨i, hi⟩)
  · rintro ⟨px, h⟩ rfl
    simp at h

/-- The collision test: some pixel is 1 in the framebuffer and in the mask. -/
theorem Framebuffer.meets_iff (fb : Framebuffer) (mask : Nat → BitVec 64) :
    fb.meets mask = true ↔
      ∃ (px : Fin 64) (py : Fin 32), fb.pixel px py = true ∧ (mask py).getMsbD px = true := by
  simp only [Framebuffer.meets, List.any_eq_true, List.mem_finRange, true_and, bne_iff_ne, bits_ne_zero_iff,
    BitVec.getMsbD_and, Bool.and_eq_true, Framebuffer.pixel]
  exact ⟨fun ⟨py, px, h⟩ => ⟨px, py, h⟩, fun ⟨px, py, h⟩ => ⟨py, px, h⟩⟩

/-- Two framebuffers whose pixels are alike are the same. -/
theorem Framebuffer.pixel_ext {fb fb' : Framebuffer} (h : ∀ px py, fb.pixel px py = fb'.pixel px py) :
    fb = fb' := by
  ext1 i hi
  exact BitVec.eq_of_getMsbD_eq fun j hj => h ⟨j, hj⟩ ⟨i, hi⟩

/-- A set sprite bit off the screen (R106, R108). -/
theorem spriteOffScreen_iff (rows : List Byte) (X Y : Nat) :
    spriteOffScreen rows X Y = true ↔
      ∃ r < rows.length, ∃ c < 8, spriteBit (rows[r]?.getD 0#8) c = true ∧ (X + c > 63 ∨ Y + r > 31) := by
  simp [spriteOffScreen]

end Sys2Proof.Machine
end

