-- ==== Sys2Proof/Laws/HostOps.lean ====
section
/-! SUPPORT. The host operations other than Step, and the performing of one. -/

namespace Sys2Proof.Machine

theorem State.isFaulted_iff (s : State) : s.isFaulted = true ↔ ∃ f p o, s.status = .faulted f p o := by
  unfold State.isFaulted
  cases s.status <;> simp

theorem State.key_setKey (s : State) (i j : KeyIx) (b : Bool) :
    (s.setKey i b).key j = if i = j then b else s.key j := by
  unfold State.key State.setKey
  simp only [Vector.getElem_set, BitVec.toNat_inj]

/-- `keyAt` reads the key array where the index is a key's (R110). -/
theorem State.keyAt_setWidth (s : State) (k : KeyIx) : s.keyAt (k.setWidth 8) = some (s.key k) := by
  have hk := k.isLt
  have h : (k.setWidth 8).toNat = k.toNat := by simp; omega
  simp [State.keyAt, State.key, h, show k.toNat < 16 from k.isLt]

theorem State.keyAt_eq_none_iff (s : State) (b : Byte) : s.keyAt b = none ↔ b.toNat > 15 := by
  unfold State.keyAt
  split <;> simp <;> omega

/-- All a Tick can do to the state. -/
theorem State.tick_cases (s : State) :
    (s.isFaulted = true ∧ s.tick = s) ∨
    (s.isFaulted = false ∧
      s.tick = { s with dt := delayAfterTick s.params.delayAtZero s.dt, st := soundAfterTick s.st }) := by
  unfold State.tick
  cases s.isFaulted <;> simp

/-- All a KeyDown can do to the state. -/
theorem State.keyDown_cases (s : State) (k : KeyIx) :
    (s.isFaulted = true ∧ s.keyDown k = s) ∨
    (s.status = .running ∧ s.keyDown k = s.setKey k true) ∨
    ∃ x, s.status = .waitKey x ∧
      s.keyDown k = { ((s.setKey k true).setV x (k.setWidth 8)).next with status := .running } := by
  unfold State.keyDown State.isFaulted
  cases h : s.status <;> simp

/-- All a Load can do to the state. -/
theorem State.load_cases (s : State) (bytes : List Byte) :
    (bytes.length > maxRomSize ∧ s.load bytes = none) ∨
    (bytes.length ≤ maxRomSize ∧ s.load bytes = some (s.writeBytes programOrigin bytes)) := by
  unfold State.load
  by_cases h : bytes.length > maxRomSize
  · exact .inl ⟨h, by simp only [h, if_true]⟩
  · exact .inr ⟨by omega, by simp only [h, if_false]⟩

/-- All a host operation can do to the state. -/
theorem perform_cases {op : HostOp} {s t : State} {o : HostOutput} (h : perform op s = .next (t, o)) :
    (op = .step ∧ step s = .next t) ∨ (op = .tick ∧ t = s.tick) ∨
    (∃ k, op = .keyDown k ∧ t = s.keyDown k) ∨ (∃ k, op = .keyUp k ∧ t = s.keyUp k) ∨
    (op = .drawAck ∧ t = s.drawAck) ∨
    (∃ bytes, op = .load bytes ∧ (s.load bytes = some t ∨ s.load bytes = none ∧ t = s)) ∨
    (op = .reset ∧ t = s.hostReset) ∨ (op = .debugDump ∧ t = s) := by
  cases op with
  | step =>
    left
    simp only [perform] at h
    split at h
    · next u hu => cases h; exact ⟨rfl, hu⟩
    · cases h
    · cases h
  | load bytes =>
    simp only [perform] at h
    split at h
    · next u hu => cases h; simp [hu]
    · next hu => cases h; simp [hu]
  | _ => simp only [perform] at h; cases h; simp

end Sys2Proof.Machine
end

