-- ==== Sys2Proof/Laws/PerInstr.lean ====
section
/-! SUPPORT. Statements made for every instruction, one lemma per constructor. -/

/-- The word of an instruction passes the checks of R62 and has the fixed bits of its own row of the opcode table
(R65). -/
def Sys2Proof.Laws.EncodingFits.Statement (i : Sys2Proof.Instr) : Prop :=
  i.WellFormed ∧ (Sys2Proof.opcodeTable[i.rowNumber]?.map (·.accepts (Sys2Proof.encode i))) = some true

namespace Sys2Proof.Laws.EncodingFits

open Sys2Proof

theorem cls : Statement .cls := ⟨by decide, by decide⟩

theorem ret : Statement .ret := ⟨by decide, by decide⟩

theorem jp (nnn : Addr12) : Statement (.jp nnn) := by
  constructor <;>
    simp [Instr.WellFormed, wellFormed, familyZeroOk, familyFiveOk, familyEightOk, familyNineOk, familyEOk,
      familyFOk, bitsAre, encode, opcodeTable, Instr.rowNumber, OpcodeRow.accepts,
      familyEightNibbles, familyFBytes]

theorem call (nnn : Addr12) : Statement (.call nnn) := by
  constructor <;>
    simp [Instr.WellFormed, wellFormed, familyZeroOk, familyFiveOk, familyEightOk, familyNineOk, familyEOk,
      familyFOk, bitsAre, encode, opcodeTable, Instr.rowNumber, OpcodeRow.accepts,
      familyEightNibbles, familyFBytes]

theorem seImm (x : RegIx) (nn : Byte) : Statement (.seImm x nn) := by
  constructor <;>
    simp [Instr.WellFormed, wellFormed, familyZeroOk, familyFiveOk, familyEightOk, familyNineOk, familyEOk,
      familyFOk, bitsAre, encode, opcodeTable, Instr.rowNumber, OpcodeRow.accepts,
      familyEightNibbles, familyFBytes]

theorem sneImm (x : RegIx) (nn : Byte) : Statement (.sneImm x nn) := by
  constructor <;>
    simp [Instr.WellFormed, wellFormed, familyZeroOk, familyFiveOk, familyEightOk, familyNineOk, familyEOk,
      familyFOk, bitsAre, encode, opcodeTable, Instr.rowNumber, OpcodeRow.accepts,
      familyEightNibbles, familyFBytes]

theorem seReg (x : RegIx) (y : RegIx) : Statement (.seReg x y) := by
  constructor <;>
    simp [Instr.WellFormed, wellFormed, familyZeroOk, familyFiveOk, familyEightOk, familyNineOk, familyEOk,
      familyFOk, bitsAre, encode, opcodeTable, Instr.rowNumber, OpcodeRow.accepts,
      familyEightNibbles, familyFBytes]

theorem ldImm (x : RegIx) (nn : Byte) : Statement (.ldImm x nn) := by
  constructor <;>
    simp [Instr.WellFormed, wellFormed, familyZeroOk, familyFiveOk, familyEightOk, familyNineOk, familyEOk,
      familyFOk, bitsAre, encode, opcodeTable, Instr.rowNumber, OpcodeRow.accepts,
      familyEightNibbles, familyFBytes]

theorem addImm (x : RegIx) (nn : Byte) : Statement (.addImm x nn) := by
  constructor <;>
    simp [Instr.WellFormed, wellFormed, familyZeroOk, familyFiveOk, familyEightOk, familyNineOk, familyEOk,
      familyFOk, bitsAre, encode, opcodeTable, Instr.rowNumber, OpcodeRow.accepts,
      familyEightNibbles, familyFBytes]

theorem ldReg (x : RegIx) (y : RegIx) : Statement (.ldReg x y) := by
  constructor <;>
    simp [Instr.WellFormed, wellFormed, familyZeroOk, familyFiveOk, familyEightOk, familyNineOk, familyEOk,
      familyFOk, bitsAre, encode, opcodeTable, Instr.rowNumber, OpcodeRow.accepts,
      familyEightNibbles, familyFBytes]

theorem orReg (x : RegIx) (y : RegIx) : Statement (.orReg x y) := by
  constructor <;>
    simp [Instr.WellFormed, wellFormed, familyZeroOk, familyFiveOk, familyEightOk, familyNineOk, familyEOk,
      familyFOk, bitsAre, encode, opcodeTable, Instr.rowNumber, OpcodeRow.accepts,
      familyEightNibbles, familyFBytes]

theorem andReg (x : RegIx) (y : RegIx) : Statement (.andReg x y) := by
  constructor <;>
    simp [Instr.WellFormed, wellFormed, familyZeroOk, familyFiveOk, familyEightOk, familyNineOk, familyEOk,
      familyFOk, bitsAre, encode, opcodeTable, Instr.rowNumber, OpcodeRow.accepts,
      familyEightNibbles, familyFBytes]

theorem xorReg (x : RegIx) (y : RegIx) : Statement (.xorReg x y) := by
  constructor <;>
    simp [Instr.WellFormed, wellFormed, familyZeroOk, familyFiveOk, familyEightOk, familyNineOk, familyEOk,
      familyFOk, bitsAre, encode, opcodeTable, Instr.rowNumber, OpcodeRow.accepts,
      familyEightNibbles, familyFBytes]

theorem addReg (x : RegIx) (y : RegIx) : Statement (.addReg x y) := by
  constructor <;>
    simp [Instr.WellFormed, wellFormed, familyZeroOk, familyFiveOk, familyEightOk, familyNineOk, familyEOk,
      familyFOk, bitsAre, encode, opcodeTable, Instr.rowNumber, OpcodeRow.accepts,
      familyEightNibbles, familyFBytes]

theorem subReg (x : RegIx) (y : RegIx) : Statement (.subReg x y) := by
  constructor <;>
    simp [Instr.WellFormed, wellFormed, familyZeroOk, familyFiveOk, familyEightOk, familyNineOk, familyEOk,
      familyFOk, bitsAre, encode, opcodeTable, Instr.rowNumber, OpcodeRow.accepts,
      familyEightNibbles, familyFBytes]

theorem shrReg (x : RegIx) (y : RegIx) : Statement (.shrReg x y) := by
  constructor <;>
    simp [Instr.WellFormed, wellFormed, familyZeroOk, familyFiveOk, familyEightOk, familyNineOk, familyEOk,
      familyFOk, bitsAre, encode, opcodeTable, Instr.rowNumber, OpcodeRow.accepts,
      familyEightNibbles, familyFBytes]

theorem subnReg (x : RegIx) (y : RegIx) : Statement (.subnReg x y) := by
  constructor <;>
    simp [Instr.WellFormed, wellFormed, familyZeroOk, familyFiveOk, familyEightOk, familyNineOk, familyEOk,
      familyFOk, bitsAre, encode, opcodeTable, Instr.rowNumber, OpcodeRow.accepts,
      familyEightNibbles, familyFBytes]

theorem shlReg (x : RegIx) (y : RegIx) : Statement (.shlReg x y) := by
  constructor <;>
    simp [Instr.WellFormed, wellFormed, familyZeroOk, familyFiveOk, familyEightOk, familyNineOk, familyEOk,
      familyFOk, bitsAre, encode, opcodeTable, Instr.rowNumber, OpcodeRow.accepts,
      familyEightNibbles, familyFBytes]

theorem sneReg (x : RegIx) (y : RegIx) : Statement (.sneReg x y) := by
  constructor <;>
    simp [Instr.WellFormed, wellFormed, familyZeroOk, familyFiveOk, familyEightOk, familyNineOk, familyEOk,
      familyFOk, bitsAre, encode, opcodeTable, Instr.rowNumber, OpcodeRow.accepts,
      familyEightNibbles, familyFBytes]

theorem ldI (nnn : Addr12) : Statement (.ldI nnn) := by
  constructor <;>
    simp [Instr.WellFormed, wellFormed, familyZeroOk, familyFiveOk, familyEightOk, familyNineOk, familyEOk,
      familyFOk, bitsAre, encode, opcodeTable, Instr.rowNumber, OpcodeRow.accepts,
      familyEightNibbles, familyFBytes]

theorem jpV0 (nnn : Addr12) : Statement (.jpV0 nnn) := by
  constructor <;>
    simp [Instr.WellFormed, wellFormed, familyZeroOk, familyFiveOk, familyEightOk, familyNineOk, familyEOk,
      familyFOk, bitsAre, encode, opcodeTable, Instr.rowNumber, OpcodeRow.accepts,
      familyEightNibbles, familyFBytes]

theorem rnd (x : RegIx) (nn : Byte) : Statement (.rnd x nn) := by
  constructor <;>
    simp [Instr.WellFormed, wellFormed, familyZeroOk, familyFiveOk, familyEightOk, familyNineOk, familyEOk,
      familyFOk, bitsAre, encode, opcodeTable, Instr.rowNumber, OpcodeRow.accepts,
      familyEightNibbles, familyFBytes]

theorem drw (x : RegIx) (y : RegIx) (n : Nibble) : Statement (.drw x y n) := by
  constructor <;>
    simp [Instr.WellFormed, wellFormed, familyZeroOk, familyFiveOk, familyEightOk, familyNineOk, familyEOk,
      familyFOk, bitsAre, encode, opcodeTable, Instr.rowNumber, OpcodeRow.accepts,
      familyEightNibbles, familyFBytes]

theorem skp (x : RegIx) : Statement (.skp x) := by
  constructor <;>
    simp [Instr.WellFormed, wellFormed, familyZeroOk, familyFiveOk, familyEightOk, familyNineOk, familyEOk,
      familyFOk, bitsAre, encode, opcodeTable, Instr.rowNumber, OpcodeRow.accepts,
      familyEightNibbles, familyFBytes]

theorem sknp (x : RegIx) : Statement (.sknp x) := by
  constructor <;>
    simp [Instr.WellFormed, wellFormed, familyZeroOk, familyFiveOk, familyEightOk, familyNineOk, familyEOk,
      familyFOk, bitsAre, encode, opcodeTable, Instr.rowNumber, OpcodeRow.accepts,
      familyEightNibbles, familyFBytes]

theorem ldVxDt (x : RegIx) : Statement (.ldVxDt x) := by
  constructor <;>
    simp [Instr.WellFormed, wellFormed, familyZeroOk, familyFiveOk, familyEightOk, familyNineOk, familyEOk,
      familyFOk, bitsAre, encode, opcodeTable, Instr.rowNumber, OpcodeRow.accepts,
      familyEightNibbles, familyFBytes]

theorem ldVxK (x : RegIx) : Statement (.ldVxK x) := by
  constructor <;>
    simp [Instr.WellFormed, wellFormed, familyZeroOk, familyFiveOk, familyEightOk, familyNineOk, familyEOk,
      familyFOk, bitsAre, encode, opcodeTable, Instr.rowNumber, OpcodeRow.accepts,
      familyEightNibbles, familyFBytes]

theorem ldDtVx (x : RegIx) : Statement (.ldDtVx x) := by
  constructor <;>
    simp [Instr.WellFormed, wellFormed, familyZeroOk, familyFiveOk, familyEightOk, familyNineOk, familyEOk,
      familyFOk, bitsAre, encode, opcodeTable, Instr.rowNumber, OpcodeRow.accepts,
      familyEightNibbles, familyFBytes]

theorem ldStVx (x : RegIx) : Statement (.ldStVx x) := by
  constructor <;>
    simp [Instr.WellFormed, wellFormed, familyZeroOk, familyFiveOk, familyEightOk, familyNineOk, familyEOk,
      familyFOk, bitsAre, encode, opcodeTable, Instr.rowNumber, OpcodeRow.accepts,
      familyEightNibbles, familyFBytes]

theorem addI (x : RegIx) : Statement (.addI x) := by
  constructor <;>
    simp [Instr.WellFormed, wellFormed, familyZeroOk, familyFiveOk, familyEightOk, familyNineOk, familyEOk,
      familyFOk, bitsAre, encode, opcodeTable, Instr.rowNumber, OpcodeRow.accepts,
      familyEightNibbles, familyFBytes]

theorem ldF (x : RegIx) : Statement (.ldF x) := by
  constructor <;>
    simp [Instr.WellFormed, wellFormed, familyZeroOk, familyFiveOk, familyEightOk, familyNineOk, familyEOk,
      familyFOk, bitsAre, encode, opcodeTable, Instr.rowNumber, OpcodeRow.accepts,
      familyEightNibbles, familyFBytes]

theorem ldB (x : RegIx) : Statement (.ldB x) := by
  constructor <;>
    simp [Instr.WellFormed, wellFormed, familyZeroOk, familyFiveOk, familyEightOk, familyNineOk, familyEOk,
      familyFOk, bitsAre, encode, opcodeTable, Instr.rowNumber, OpcodeRow.accepts,
      familyEightNibbles, familyFBytes]

theorem storeRegs (x : RegIx) : Statement (.storeRegs x) := by
  constructor <;>
    simp [Instr.WellFormed, wellFormed, familyZeroOk, familyFiveOk, familyEightOk, familyNineOk, familyEOk,
      familyFOk, bitsAre, encode, opcodeTable, Instr.rowNumber, OpcodeRow.accepts,
      familyEightNibbles, familyFBytes]

theorem loadRegs (x : RegIx) : Statement (.loadRegs x) := by
  constructor <;>
    simp [Instr.WellFormed, wellFormed, familyZeroOk, familyFiveOk, familyEightOk, familyNineOk, familyEOk,
      familyFOk, bitsAre, encode, opcodeTable, Instr.rowNumber, OpcodeRow.accepts,
      familyEightNibbles, familyFBytes]

end Sys2Proof.Laws.EncodingFits
end

