-- ==== Sys2Proof/Laws/Step.lean ====
section
/-! SUPPORT. All a Step can do (R66): what a proof about `step` cites instead of unfolding it. -/

namespace Sys2Proof.Machine

/-- The decoder's only reason against a word is that the word is illegal. -/
theorem decode_error {w : Word} {e : DecodeReject} (h : decode w = .error e) : e = .illegal w := by
  unfold decode decodeFamily0 decodeFamily8 decodeFamilyE decodeFamilyF at h
  repeat' split at h
  all_goals first | (cases h; rfl) | cases h

/-- All a Step can do. -/
theorem step_cases {s : State} {r : Host.Outcome State Fault Refusal} (h : step s = r) :
    (s.status ≠ .running ∧ r = .next s) ∨
    (s.status = .running ∧ s.fetch = none ∧ r = .next (s.raise (.memoryBoundsError s.pc))) ∨
    (∃ w, s.status = .running ∧ s.fetch = some w ∧ decode w = .error (.illegal w) ∧
      r = .next ((s.latch w).raise (.decodeError w))) ∨
    ∃ w i, s.status = .running ∧ s.fetch = some w ∧ decode w = .ok i ∧ r = exec i (s.latch w) := by
  subst h
  unfold step
  cases hs : s.status with
  | faulted f p o => simp
  | waitKey x => simp
  | running =>
    cases hf : s.fetch with
    | none => simp
    | some w =>
      cases hd : decode w with
      | error e => cases decode_error hd; simp [hd]
      | ok i => simp [hd]

end Sys2Proof.Machine
end

