-- ==== Sys2Proof/Tests/Slice0.lean ====
section
/-! SUPPORT. The author's own tests: the checks on words, decoding against words written out from the formats of R59, one
Step each against the vectors of spec/95_test_vectors.md, and a witness of the hypotheses of each statement. -/

namespace Sys2Proof.Tests

open Sys2Proof Sys2Proof.Machine Sys2Proof.Safety

/-! ### Helpers -/

/-- The next state of an outcome. -/
def nextOf {α : Type} (o : Host.Outcome α Fault Refusal) : Option α :=
  match o with
  | .next t => some t
  | .fault _ => none
  | .refused _ => none

theorem eq_next {α : Type} {o : Host.Outcome α Fault Refusal} {t : α} (h : nextOf o = some t) : o = .next t := by
  cases o <;> cases h
  rfl

/-- `s` with the word `w` at pc, high byte first. -/
def place (s : State) (w : Word) : State := s.writeBytes s.pc.toNat (bytesOfWord w)

/-- S0 of 95_test_vectors.md with the register changes listed. -/
def s0 (changes : List (RegIx × Byte)) : State := changes.foldl (fun s c => s.setV c.1 c.2) State.reset

/-- S0 under `FlagLast`. -/
def s0Last (changes : List (RegIx × Byte)) : State :=
  let s := s0 changes
  { s with params := { s.params with vfWriteOrder := .flagLast } }

/-- S0 with I and the register changes. -/
def s0I (index : Word) (changes : List (RegIx × Byte)) : State := { s0 changes with index := index }

/-- What `look` sees after one Step on the word `w`. -/
def after {α : Type} (s : State) (w : Word) (look : State → α) : Option α := (nextOf (step (place s w))).map look

/-- V1, VF and pc. -/
def v1FlagPc (t : State) : Byte × Byte × Word := (t.v 1, t.v vF, t.pc)

/-- VF and pc. -/
def flagPc (t : State) : Byte × Word := (t.v vF, t.pc)

/-- Status, pc and latch. -/
def statusPcLatch (t : State) : Status × Word × Word := (t.status, t.pc, t.opcode)

/-- A state in which a Step has faulted. -/
def faultedState : State := State.reset.raise (.decodeError 0)

/-- A state in which Fx0A waits for V3. -/
def waitingState : State := { State.reset with status := .waitKey 3 }

/-! ### The checks on instruction words (WellFormed.lean): each refuses an ill-formed word -/

theorem test_family0_refuses : familyZeroOk 0x0123 = false ∧ familyZeroOk 0x00E0 = true := by decide
theorem test_family5_refuses : familyFiveOk 0x5121 = false ∧ familyFiveOk 0x5120 = true := by decide
theorem test_family8_refuses : familyEightOk 0x8008 = false ∧ familyEightOk 0x800E = true := by decide
theorem test_family9_refuses : familyNineOk 0x9121 = false ∧ familyNineOk 0x9120 = true := by decide
theorem test_familyE_refuses : familyEOk 0xE19F = false ∧ familyEOk 0xE19E = true := by decide
theorem test_familyF_refuses : familyFOk 0xF100 = false ∧ familyFOk 0xF10A = true := by decide
theorem test_wellFormed_refuses_each_class :
    [0x0123, 0x5121, 0x8008, 0x9121, 0xE19F, 0xF100].all (fun w => !wellFormed w) = true := by decide

/-! ### Decoding: words written out bit by bit from the formats of R59 and the map of R62 -/

theorem test_decode_cls : decode 0b0000000011100000#16 = .ok .cls := by decide
theorem test_decode_ret : decode 0b0000000011101110#16 = .ok .ret := by decide
theorem test_decode_jp : decode 0b0001101010111100#16 = .ok (.jp 0xABC) := by decide
theorem test_decode_call : decode 0b0010101010111100#16 = .ok (.call 0xABC) := by decide
theorem test_decode_seImm : decode 0b0011101010111100#16 = .ok (.seImm 0xA 0xBC) := by decide
theorem test_decode_sneImm : decode 0b0100101010111100#16 = .ok (.sneImm 0xA 0xBC) := by decide
theorem test_decode_seReg : decode 0b0101101010110000#16 = .ok (.seReg 0xA 0xB) := by decide
theorem test_decode_ldImm : decode 0b0110101010111100#16 = .ok (.ldImm 0xA 0xBC) := by decide
theorem test_decode_addImm : decode 0b0111101010111100#16 = .ok (.addImm 0xA 0xBC) := by decide
theorem test_decode_ldReg : decode 0b1000101010110000#16 = .ok (.ldReg 0xA 0xB) := by decide
theorem test_decode_orReg : decode 0b1000101010110001#16 = .ok (.orReg 0xA 0xB) := by decide
theorem test_decode_andReg : decode 0b1000101010110010#16 = .ok (.andReg 0xA 0xB) := by decide
theorem test_decode_xorReg : decode 0b1000101010110011#16 = .ok (.xorReg 0xA 0xB) := by decide
theorem test_decode_addReg : decode 0b1000101010110100#16 = .ok (.addReg 0xA 0xB) := by decide
theorem test_decode_subReg : decode 0b1000101010110101#16 = .ok (.subReg 0xA 0xB) := by decide
theorem test_decode_shrReg : decode 0b1000101010110110#16 = .ok (.shrReg 0xA 0xB) := by decide
theorem test_decode_subnReg : decode 0b1000101010110111#16 = .ok (.subnReg 0xA 0xB) := by decide
theorem test_decode_shlReg : decode 0b1000101010111110#16 = .ok (.shlReg 0xA 0xB) := by decide
theorem test_decode_sneReg : decode 0b1001101010110000#16 = .ok (.sneReg 0xA 0xB) := by decide
theorem test_decode_ldI : decode 0b1010101010111100#16 = .ok (.ldI 0xABC) := by decide
theorem test_decode_jpV0 : decode 0b1011101010111100#16 = .ok (.jpV0 0xABC) := by decide
theorem test_decode_rnd : decode 0b1100101010111100#16 = .ok (.rnd 0xA 0xBC) := by decide
theorem test_decode_drw : decode 0b1101101010111100#16 = .ok (.drw 0xA 0xB 0xC) := by decide
theorem test_decode_skp : decode 0b1110101010011110#16 = .ok (.skp 0xA) := by decide
theorem test_decode_sknp : decode 0b1110101010100001#16 = .ok (.sknp 0xA) := by decide
theorem test_decode_ldVxDt : decode 0b1111101000000111#16 = .ok (.ldVxDt 0xA) := by decide
theorem test_decode_ldVxK : decode 0b1111101000001010#16 = .ok (.ldVxK 0xA) := by decide
theorem test_decode_ldDtVx : decode 0b1111101000010101#16 = .ok (.ldDtVx 0xA) := by decide
theorem test_decode_ldStVx : decode 0b1111101000011000#16 = .ok (.ldStVx 0xA) := by decide
theorem test_decode_addI : decode 0b1111101000011110#16 = .ok (.addI 0xA) := by decide
theorem test_decode_ldF : decode 0b1111101000101001#16 = .ok (.ldF 0xA) := by decide
theorem test_decode_ldB : decode 0b1111101000110011#16 = .ok (.ldB 0xA) := by decide
theorem test_decode_storeRegs : decode 0b1111101001010101#16 = .ok (.storeRegs 0xA) := by decide
theorem test_decode_loadRegs : decode 0b1111101001100101#16 = .ok (.loadRegs 0xA) := by decide

/-- The illegal words of E10 and FD5 to FD11. -/
theorem test_decode_illegal :
    [0x0000, 0x00E1, 0x01E0, 0x0FEE, 0x812F, 0xE09F, 0xF0FF, 0x8008, 0x0123, 0x5121, 0x9121, 0xE19F, 0xF100].all
      (fun w => decode w == .error (.illegal w)) = true := by decide

/-- The high byte lies lower in memory (R46): bytes 8A B4. -/
theorem test_decode_bytes : decodeBytes [0x8A, 0xB4, 0x12] = .ok (.addReg 0xA 0xB, [0x12]) := by decide
theorem test_decode_truncated : decodeBytes [0x8A] = .error .truncated := by decide
theorem test_decodeTableWord : decodeTableWord 16 0x8AB4 = some (.addReg 0xA 0xB) := by decide
theorem test_withFetchWord :
    (nextOf (step (State.reset.withFetchWord 16 0x6A2B))).map (fun t => (t.v 0xA, t.pc)) = some (0x2B, 0x202) := by
  decide

/-! ### The Step cycle (FD1 to FD4, E10) -/

theorem test_fd1_last_word :
    after { State.reset with pc := 0xFFE } 0x602A (fun t => (t.v 0, t.pc)) = some (0x2A, 0x1000) := by decide
theorem test_fd2_fetch_past_end :
    (nextOf (step { State.reset with pc := 0x1000, opcode := 0x602A })).map statusPcLatch =
      some (.faulted (.memoryBoundsError 0x1000) 0x1000 0x602A, 0x1000, 0x602A) := by decide
theorem test_fd4_odd_pc :
    after { State.reset with pc := 0x201 } 0x6055 (fun t => (t.v 0, t.pc)) = some (0x55, 0x203) := by decide
theorem test_e10_illegal_word :
    after State.reset 0x8008 id = some { place State.reset 0x8008 with
      opcode := 0x8008, status := .faulted (.decodeError 0x8008) 0x200 0x8008 } := by decide

/-! ### Control transfer (CF1 to CF18, E8, E9) -/

theorem test_cf1_return_underflow :
    after State.reset 0x00EE statusPcLatch = some (.faulted .stackUnderflow 0x200 0x00EE, 0x200, 0x00EE) := by decide
theorem test_cf2_return :
    after { State.reset with sp := 2, stack := (State.reset.stack.set 0 0x204).set 1 0x300 } 0x00EE
      (fun t => (t.sp, t.pc, t.stack[1])) = some (1, 0x302, 0x300) := by decide
theorem test_cf4_self_jump : after State.reset 0x1200 (fun t => t.pc) = some 0x200 := by decide
theorem test_cf6_odd_jump : after State.reset 0x1301 (fun t => t.pc) = some 0x301 := by decide
theorem test_cf7_call :
    after { State.reset with pc := 0x2FE, sp := 15 } 0x2400 (fun t => (t.stack[15], t.sp, t.pc)) =
      some (0x2FE, 16, 0x400) := by decide
theorem test_cf8_call_overflow :
    after { State.reset with sp := 16 } 0x2400 (fun t => (t.status, t.sp, t.stack)) =
      some (.faulted .stackOverflow 0x200 0x2400, 16, State.reset.stack) := by decide
theorem test_cf9_skip_on_flag_register : after (s0 [(0xF, 1)]) 0x3F01 flagPc = some (1, 0x204) := by decide
theorem test_e9_se_imm_no_skip : after (s0 [(3, 0x11)]) 0x3310 (fun t => t.pc) = some 0x202 := by decide
theorem test_cf11_sne_imm_equal : after State.reset 0x4000 (fun t => t.pc) = some 0x202 := by decide
theorem test_cf12_sne_imm_differs : after State.reset 0x4001 (fun t => t.pc) = some 0x204 := by decide
theorem test_e9_se_reg_no_skip : after (s0 [(1, 7), (2, 8)]) 0x5120 (fun t => t.pc) = some 0x202 := by decide
theorem test_cf13_se_reg_same : after (s0 [(5, 0x99)]) 0x5550 (fun t => t.pc) = some 0x204 := by decide
theorem test_e9_sne_reg_skip : after (s0 [(1, 7), (2, 8)]) 0x9120 (fun t => t.pc) = some 0x204 := by decide
theorem test_cf14_sne_reg_same : after (s0 [(5, 0x99)]) 0x9550 (fun t => t.pc) = some 0x202 := by decide
theorem test_cf17_jump_uses_v0 : after (s0 [(0, 0xFF), (3, 0)]) 0xB3FF (fun t => t.pc) = some 0x04FE := by decide
theorem test_cf18_jump_past_memory : after (s0 [(0, 0xFF)]) 0xBFFF (fun t => t.pc) = some 0x10FE := by decide

/-! ### Loads, arithmetic, logic, shifts, random (A1 to A32, E1 to E3) -/

theorem test_a1_load_flag_register : after State.reset 0x6F42 flagPc = some (0x42, 0x202) := by decide
theorem test_a2_add_imm_wraps_no_flag :
    after (s0 [(3, 0xFF), (0xF, 0x77)]) 0x7301 (fun t => (t.v 3, t.v vF)) = some (0x00, 0x77) := by decide
theorem test_a3_add_imm_to_flag_register : after (s0 [(0xF, 0x10)]) 0x7F05 flagPc = some (0x15, 0x202) := by decide
theorem test_a4_copy : after (s0 [(3, 0x9A)]) 0x8230 (fun t => (t.v 2, t.pc)) = some (0x9A, 0x202) := by decide
theorem test_a5_or : after (s0 [(1, 0x0F), (2, 0xF0)]) 0x8121 v1FlagPc = some (0xFF, 0, 0x202) := by decide
theorem test_a8_or_writes_no_flag :
    after (s0 [(1, 0x5A), (0xF, 9)]) 0x8111 v1FlagPc = some (0x5A, 9, 0x202) := by decide
theorem test_a6_and : after (s0 [(1, 0x3C), (2, 0x0F)]) 0x8122 v1FlagPc = some (0x0C, 0, 0x202) := by decide
theorem test_a7_xor_self : after (s0 [(1, 0x5A)]) 0x8113 v1FlagPc = some (0, 0, 0x202) := by decide
theorem test_e1_add : after (s0 [(1, 0xFF), (2, 2)]) 0x8124 v1FlagPc = some (1, 1, 0x202) := by decide
theorem test_a12_a13_add_flag_register :
    (after (s0 [(0xF, 0xFF), (2, 2)]) 0x8F24 flagPc, after (s0Last [(0xF, 0xFF), (2, 2)]) 0x8F24 flagPc,
      after (s0 [(1, 0x10), (0xF, 0xF5)]) 0x81F4 v1FlagPc, after (s0Last [(1, 0x10), (0xF, 0xF5)]) 0x81F4 v1FlagPc) =
      (some (3, 0x202), some (1, 0x202), some (0x11, 1, 0x202), some (5, 1, 0x202)) := by decide
theorem test_e2_sub : after (s0 [(1, 2), (2, 5)]) 0x8125 v1FlagPc = some (0xFD, 0, 0x202) := by decide
theorem test_a14_a16_a17_sub_flag_register :
    (after (s0 [(1, 0x40), (2, 0x40)]) 0x8125 v1FlagPc, after (s0 [(0xF, 0x37)]) 0x8FF5 flagPc,
      after (s0Last [(0xF, 0x37)]) 0x8FF5 flagPc, after (s0 [(1, 5), (0xF, 9)]) 0x81F5 v1FlagPc,
      after (s0Last [(1, 5), (0xF, 9)]) 0x81F5 v1FlagPc) =
      (some (0, 1, 0x202), some (0, 0x202), some (1, 0x202), some (5, 0, 0x202), some (0xFC, 0, 0x202)) := by decide
theorem test_a19_shr : after (s0 [(1, 0xFF), (0xE, 0)]) 0x81E6 v1FlagPc = some (0x7F, 1, 0x202) := by decide
theorem test_a20_shr_flag_register :
    (after (s0 [(0xF, 3)]) 0x8F06 flagPc, after (s0Last [(0xF, 3)]) 0x8F06 flagPc) =
      (some (0, 0x202), some (1, 0x202)) := by decide
theorem test_a22_subn : after (s0 [(1, 5), (2, 2)]) 0x8127 v1FlagPc = some (0xFD, 0, 0x202) := by decide
theorem test_a24_a25_subn_flag_register :
    (after (s0 [(0xF, 3), (1, 1)]) 0x8F17 flagPc, after (s0Last [(0xF, 3), (1, 1)]) 0x8F17 flagPc,
      after (s0 [(1, 2), (0xF, 7)]) 0x81F7 v1FlagPc, after (s0Last [(1, 2), (0xF, 7)]) 0x81F7 v1FlagPc) =
      (some (1, 0x202), some (0, 0x202), some (0xFF, 1, 0x202), some (5, 1, 0x202)) := by decide
theorem test_a26_shl : after (s0 [(1, 0x81)]) 0x810E v1FlagPc = some (2, 1, 0x202) := by decide
theorem test_a28_shl_flag_register :
    (after (s0 [(0xF, 0x80)]) 0x8F0E flagPc, after (s0Last [(0xF, 0x80)]) 0x8F0E flagPc) =
      (some (2, 0x202), some (1, 0x202)) := by decide
/-- A31, for whatever the free byte is. -/
theorem test_a31_random_masked :
    after State.reset 0xC3F0 (fun t => (t.v 3, t.draws, t.pc)) =
      some (Config.randomByte 0 &&& 0xF0, 1, 0x202) := by rfl

/-! ### Index and memory transfer (M1 to M18, E7) -/

theorem test_m1_load_index : after State.reset 0xAFFF (fun t => (t.index, t.pc)) = some (0x0FFF, 0x202) := by decide
theorem test_m3_index_overflow :
    after (s0I 0xFFFF [(0, 1)]) 0xF01E (fun t => (t.status, t.index)) =
      some (.faulted (.indexOverflow 0x10000) 0x200 0xF01E, 0xFFFF) := by decide
theorem test_m4_index_add_no_flag :
    after (s0I 0x0FFF [(1, 1), (0xF, 5)]) 0xF11E (fun t => (t.index, t.v vF)) = some (0x1000, 5) := by decide
theorem test_m7_glyph_not_masked : after (s0 [(0, 0xFF)]) 0xF029 (fun t => t.index) = some 0x04FB := by decide
theorem test_e7_decimal :
    after (s0I 0x300 [(4, 157)]) 0xF433
      (fun t => (t.readByte 0x300, t.readByte 0x301, t.readByte 0x302, t.index, t.pc)) =
      some (1, 5, 7, 0x300, 0x202) := by decide
theorem test_m12_decimal_bounds :
    after (s0I 0xFFE [(0, 9)]) 0xF033 (fun t => (t.status, t.mem)) =
      some (.faulted (.memoryBoundsError 0xFFE) 0x200 0xF033, (place State.reset 0xF033).mem) := by decide
theorem test_m13_store :
    after (s0I 0x300 [(0, 0xAB), (1, 0xCD)]) 0xF055
      (fun t => (t.readByte 0x300, t.readByte 0x301, t.index, t.pc)) = some (0xAB, 0, 0x301, 0x202) := by decide
theorem test_m15_m16_store_bounds_and_font :
    (after (s0I 0xFF1 []) 0xFF55 (fun t => t.status), after (s0I 0 []) 0xF055 (fun t => (t.readByte 0, t.index))) =
      (some (.faulted (.memoryBoundsError 0xFF1) 0x200 0xFF55), some (0, 1)) := by decide
theorem test_m17_load :
    after ((s0I 0x300 []).writeBytes 0x300 [0x10, 0x11, 0x12]) 0xF165
      (fun t => (t.v 0, t.v 1, t.v 2, t.index)) = some (0x10, 0x11, 0, 0x302) := by decide
theorem test_m18_load_bounds :
    after (s0I 0x1000 []) 0xF065 (fun t => t.status) =
      some (.faulted (.memoryBoundsError 0x1000) 0x200 0xF065) := by decide

/-! ### Display (DS1 to DS15, E4, E5) -/

/-- S0 with I = 0x300, the sprite bytes there, and the registers. -/
def withSprite (rows : List Byte) (changes : List (RegIx × Byte)) : State := (s0I 0x300 changes).writeBytes 0x300 rows

/-- The rows py and py + 1 of the screen, VF and draw_flag. -/
def rowsFlag (py : Fin 31) (t : State) : BitVec 64 × BitVec 64 × Byte × Bool :=
  (t.fb[py.val], t.fb[py.val + 1], t.v vF, t.drawFlag)

/-- `s` under `DRAW_EDGE = Fault`. -/
def edgeFault (s : State) : State := { s with params := { s.params with drawEdge := .fault } }

theorem test_ds1_clear :
    after { s0 [(0xF, 7)] with fb := State.reset.fb.set 5 1 } 0x00E0 (fun t => (t.fb, t.drawFlag, t.v vF, t.pc)) =
      some (State.reset.fb, true, 7, 0x202) := by decide
/-- The rows of E5, drawn on a clear screen: 0xA5 and 0x3C at column 8. -/
theorem test_e5_draw :
    after (withSprite [0xA5, 0x3C] [(1, 8), (2, 4)]) 0xD122 (rowsFlag 4) =
      some (0x00A5000000000000, 0x003C000000000000, 0, true) := by decide
/-- DS5, DS6, DS7 and DS14: a collision, the right edge under both parameters, and X read before VF is written. -/
theorem test_draw_corner_cases :
    after { withSprite [0xC0] [] with fb := State.reset.fb.set 0 0x8000000000000000 } 0xD011 (rowsFlag 0) =
      some (0x4000000000000000, 0, 1, true) ∧
    after (withSprite [0xFF] [(0, 62)]) 0xD011 (rowsFlag 0) = some (3, 0, 0, true) ∧
    after (edgeFault (withSprite [0xFF] [(0, 62)])) 0xD011 (fun t => (t.status, t.drawFlag)) =
      some (.faulted (.drawBoundsError 62 0) 0x200 0xD011, false) ∧
    after (withSprite [0x80] [(0xF, 5)]) 0xDF11 (rowsFlag 0) = some (0x0400000000000000, 0, 0, true) := by
  refine ⟨?_, ?_, ?_, ?_⟩ <;> decide

/-! ### Keys and timers (KT1 to KT16) -/

/-- S0 with the key `k` pressed. -/
def keyPressed (k : KeyIx) (changes : List (RegIx × Byte)) : State := (s0 changes).keyDown k

theorem test_kt1_skp_key_index :
    after (s0 [(5, 0x10)]) 0xE59E (fun t => t.status) = some (.faulted (.keyIndexError 0x10) 0x200 0xE59E) := by decide
theorem test_kt4_skp_pressed : after (keyPressed 3 [(0, 3)]) 0xE09E (fun t => t.pc) = some 0x204 := by decide
theorem test_kt2_sknp_key_index :
    after (s0 [(5, 0x10)]) 0xE5A1 (fun t => t.status) = some (.faulted (.keyIndexError 0x10) 0x200 0xE5A1) := by decide
theorem test_kt3_sknp_released :
    (after (s0 [(0, 3)]) 0xE0A1 (fun t => t.pc), after (keyPressed 3 [(0, 3)]) 0xE0A1 (fun t => t.pc)) =
      (some 0x204, some 0x202) := by decide
theorem test_kt5_read_delay : after State.reset 0xF007 (fun t => (t.v 0, t.pc)) = some (0x3C, 0x202) := by decide
theorem test_kt6_key_wait :
    after (keyPressed 2 []) 0xF00A (fun t => (t.status, t.pc, t.v 0)) = some (.waitKey 0, 0x200, 0) := by decide
theorem test_kt10_key_wait_ends :
    after State.reset 0xFF0A (fun t => let u := t.keyDown 0xA; (u.v vF, u.key 0xA, u.pc, u.status)) =
      some (0x0A, true, 0x202, .running) := by decide
theorem test_kt13_delay_both :
    (after (s0 [(0, 1)]) 0xF015 (fun t => (t.dt, t.tick.dt)),
      after { s0 [(0, 1)] with params := { Params.default with delayAtZero := .reload60 } } 0xF015
        (fun t => (t.dt, t.tick.dt))) = (some (1, 0), some (1, 60)) := by decide
theorem test_kt15_sound_beeps :
    after (s0 [(0, 1)]) 0xF018 (fun t => (t.st, t.tick.st, t.tickBeeps, t.tick.tickBeeps)) =
      some (1, 0, true, false) := by decide

/-! ### Host operations (H1 to H10, E11 to E13) -/

theorem test_h1_tick_at_zero :
    ({ State.reset with dt := 0 } : State).tick = { State.reset with dt := 0 } := by decide
theorem test_e13_beep_from_one_only :
    (({ State.reset with st := 2 } : State).tickBeeps, ({ State.reset with st := 2 } : State).tick.tickBeeps) =
      (false, true) := by decide
theorem test_h2_h4_h5_faulted_is_absorbing :
    faultedState.tick = faultedState ∧ faultedState.drawAck = faultedState ∧
      faultedState.keyDown 1 = faultedState := by decide
theorem test_h3_draw_ack : ({ State.reset with drawFlag := true } : State).drawAck.drawFlag = false := by decide
theorem test_h7_h8_reset : faultedState.hostReset = State.reset ∧ waitingState.hostReset = State.reset := by decide
theorem test_h9_load :
    (State.reset.load [0x12, 0x00]).map (fun t => (t.readByte 0x200, t.readByte 0x201)) = some (0x12, 0) := by decide
theorem test_h10_debug_dump_in_every_status :
    [State.reset, waitingState, faultedState].map (fun s => (s.debugDump.status, s.debugDump.pc, s.debugDump.opcode)) =
      [(.running, 0x200, 0), (.waitKey 3, 0x200, 0), (.faulted (.decodeError 0) 0x200 0, 0x200, 0)] := by decide
theorem test_e12_load_too_long : State.reset.load (List.replicate 3585 0#8) = none :=
  if_pos (by rw [List.length_replicate]; decide)
theorem test_r144_font_of_digit_0 :
    [0, 1, 2, 3, 4].map State.reset.readByte = [0xF0, 0x90, 0x90, 0x90, 0xF0] := by decide

/-! ### Witnesses: a state and operands that meet the hypotheses of each statement, named after it, one for each clause -/

/-- The invariant holds with a word placed at the reset pc, so the statements that assume it are not empty. -/
theorem witness_StateInvariant : StateInvariant (place State.reset 0x8124) where
  memory := by decide
  pcBound := by decide
  stackBound := by decide
  waitPc := fun x h => by cases (h : Status.running = .waitKey x)
  faultRecord := fun f p o h => by cases (h : Status.running = .faulted f p o)

theorem witness_EncodeOfDecodeIsTheWord : decode 0x812E = .ok (.shlReg 1 2) := by decide

theorem witness_DecodeFollowsOpcodeTable :
    decode 0x812E = .ok (.shlReg 1 2) ∧ opcodeTable[17]? = some ⟨0x800E, 0xF00F⟩ ∧
      decode 0x812F = .error (.illegal 0x812F) := by decide

theorem witness_StepRunsTheDecodedInstruction :
    let s := place { State.reset with pc := 0xFFE } 0x602A
    s.status = .running ∧ s.pc.toNat + 1 ≤ 0xFFF ∧
      decode (wordOfBytes (s.readByte s.pc.toNat) (s.readByte (s.pc.toNat + 1))) = .ok (.ldImm 0 0x2A) := by decide

theorem witness_StepCycleByStatusAndFetch :
    waitingState.status ≠ .running ∧ faultedState.status ≠ .running ∧
    (let s := { State.reset with pc := 0xFFF }
     s.status = .running ∧ s.pc.toNat + 1 > 0xFFF) ∧
    (let s := place { State.reset with pc := 0xFFE } 0x812F
     s.status = .running ∧ s.pc.toNat + 1 ≤ 0xFFF ∧
        decode (s.readByte 0xFFE ++ s.readByte 0xFFF) = .error (.illegal 0x812F)) ∧
    (let s := place { State.reset with pc := 0xFFE } 0x812E
     s.status = .running ∧ s.pc.toNat + 1 ≤ 0xFFF ∧
        decode (s.readByte 0xFFE ++ s.readByte 0xFFF) = .ok (.shlReg 1 2)) := by decide

theorem witness_FaultsArePrecise :
    (let s := place State.reset 0x00EE
     s.status = .running ∧ s.pc.toNat + 1 ≤ 0xFFF ∧
        step s = .next ({ s with opcode := 0x00EE }.raise .stackUnderflow)) ∧
    (let s := { State.reset with pc := 0xFFF }
     s.status = .running ∧ s.pc.toNat + 1 > 0xFFF ∧
        step s = .next (s.raise (.memoryBoundsError 0xFFF))) :=
  ⟨⟨by decide, by decide, eq_next (by decide)⟩, by decide, by decide, eq_next (by decide)⟩

/-- The last value at which each instruction runs, and the first at which it faults. -/
theorem witness_OnlyListedConditionsFault :
    State.reset.status = .running ∧
    (nextOf (exec .ret { State.reset with sp := 1 })).map State.isFaulted = some false ∧
    (nextOf (exec .ret State.reset)).map State.isFaulted = some true ∧
    (nextOf (exec (.call 0x300) { State.reset with sp := 15 })).map State.isFaulted = some false ∧
    (nextOf (exec (.call 0x300) { State.reset with sp := 16 })).map State.isFaulted = some true ∧
    (nextOf (exec (.addI 0) (s0I 0xFFFE [(0, 1)]))).map State.isFaulted = some false ∧
    (nextOf (exec (.addI 0) (s0I 0xFFFF [(0, 1)]))).map State.isFaulted = some true ∧
    (nextOf (exec (.skp 0) (s0 [(0, 15)]))).map State.isFaulted = some false ∧
    (nextOf (exec (.sknp 0) (s0 [(0, 16)]))).map State.isFaulted = some true ∧
    (nextOf (exec (.ldB 0) (s0I 0xFFD []))).map State.isFaulted = some false ∧
    (nextOf (exec (.ldB 0) (s0I 0xFFE []))).map State.isFaulted = some true ∧
    (nextOf (exec (.storeRegs 15) (s0I 0xFF0 []))).map State.isFaulted = some false ∧
    (nextOf (exec (.loadRegs 15) (s0I 0xFF1 []))).map State.isFaulted = some true ∧
    (nextOf (exec (.drw 0 1 3) (s0I 0xFFD []))).map State.isFaulted = some false ∧
    (nextOf (exec (.drw 0 1 3) (s0I 0xFFE []))).map State.isFaulted = some true ∧
    (nextOf (exec .cls State.reset)).map State.isFaulted = some false := by
  refine ⟨?_, ?_, ?_, ?_, ?_, ?_, ?_, ?_, ?_, ?_, ?_, ?_, ?_, ?_, ?_, ?_⟩ <;> decide

theorem witness_NextPcOfEveryInstruction :
    let s := place State.reset 0x8124
    StateInvariant s ∧ s.status = .running ∧ s.fetch = some 0x8124 ∧ decode 0x8124 = .ok (.addReg 1 2) ∧
      step s = .next { s with opcode := 0x8124, pc := 0x202 } :=
  ⟨witness_StateInvariant, by decide, by decide, by decide, eq_next (by decide)⟩

theorem witness_StepKeepsInvariant :
    StateInvariant (place State.reset 0x8124) ∧
      step (place State.reset 0x8124) = .next { place State.reset 0x8124 with opcode := 0x8124, pc := 0x202 } :=
  ⟨witness_StateInvariant, eq_next (by decide)⟩

theorem witness_HostOperationsKeepInvariant :
    let s := place State.reset 0x8124
    HostOp.tick ≠ .step ∧ StateInvariant s ∧ perform .tick s = .next ({ s with dt := 59 }, .ticked false) :=
  ⟨by decide, witness_StateInvariant, eq_next (by decide)⟩

theorem witness_ParametersNeverChange :
    perform (.keyDown 1) State.reset = .next (State.reset.setKey 1 true, .done) :=
  eq_next (by decide)

theorem witness_OnlyNamedInstructionsWriteEachPart :
    exec (.ldDtVx 1) (s0 [(1, 7)]) = .next { s0 [(1, 7)] with dt := 7, pc := 0x202 } :=
  eq_next (by decide)

theorem witness_OnlyFlagInstructionsWriteVF :
    let s := s0 [(1, 0xFF), (2, 2)]
    exec (.addReg 1 2) s = .next { (s.setV vF 1).setV 1 1 with pc := 0x202 } ∧
      ({ (s.setV vF 1).setV 1 1 with pc := 0x202 } : State).v vF ≠ s.v vF :=
  ⟨eq_next (by decide), by decide⟩

theorem witness_ReturnGoesPastTheCallSite :
    State.reset.sp.val = 0 ∧ 0 < ({ State.reset with sp := 1 } : State).sp.val ∧
      0 < ({ State.reset with sp := 16 } : State).sp.val := by decide

/-- Also of the premise inside the statement's second clause: the invariant with a full stack. -/
theorem witness_ReturnGoesPastTheCallSite_invariant :
    let s := { State.reset with sp := 16, stack := State.reset.stack.set 15 0xFFE }
    0 < s.sp.val ∧ StateInvariant s :=
  ⟨by decide, by decide, by decide, by decide, (fun x h => by cases (h : Status.running = .waitKey x)),
    (fun f p o h => by cases (h : Status.running = .faulted f p o))⟩

theorem witness_CallPushesItsOwnAddress :
    ({ State.reset with sp := 16 } : State).sp.val = 16 ∧ ({ State.reset with sp := 15 } : State).sp.val < 16 := by
  decide

theorem witness_CallThenReturnComesBack :
    let s := { State.reset with sp := 15 }
    let t := { s with stack := s.stack.set 15 0x200, sp := 16, pc := 0x300 }
    s.sp.val < 16 ∧ exec (.call 0x300) s = .next t ∧
      (t.setV 3 9).stack = t.stack ∧ (t.setV 3 9).sp = t.sp :=
  ⟨by decide, eq_next (by decide), rfl, rfl⟩

/-- The premise shared by the statements on 00EE, 1nnn, Bnnn, 3xnn and 4xnn: a next state whose fetch passes 0xFFF. -/
theorem witness_FaultsWhenFetchedPastEnd :
    let pastEnd := fun t : State => decide (t.status = .running ∧ t.pc.toNat + 1 > 0xFFF)
    (nextOf (exec .ret { State.reset with sp := 1, stack := State.reset.stack.set 0 0xFFE })).map pastEnd = some true ∧
    (nextOf (exec (.jp 0xFFF) State.reset)).map pastEnd = some true ∧
    (nextOf (exec (.jpV0 0xF00) (s0 [(0, 0xFF)]))).map pastEnd = some true ∧
    (nextOf (exec (.seImm 0 0) { State.reset with pc := 0xFFC })).map pastEnd = some true ∧
    (nextOf (exec (.sneImm 0 0) { State.reset with pc := 0xFFE })).map pastEnd = some true := by decide

theorem witness_ImmediateSkipsMovePcByFourOrTwo :
    (s0 [(3, 0x10)]).v 3 = 0x10 ∧ (s0 [(3, 0x11)]).v 3 ≠ 0x10 := by decide

theorem witness_RegisterSkipsMovePcByFourOrTwo :
    (1#4 : Nibble) ≠ 0x0#4 ∧ (s0 [(1, 7), (2, 7)]).v 1 = (s0 [(1, 7), (2, 7)]).v 2 ∧
      (s0 [(1, 7)]).v 1 ≠ (s0 [(1, 7)]).v 2 := by decide

/-- The premises of the flag statements (8xy4, 8xy5, 8xy7, 8xy6, 8xyE): each write order, and x other than F. -/
theorem witness_WritesResultAndFlag :
    State.reset.params.vfWriteOrder = .flagFirst ∧ (s0Last []).params.vfWriteOrder = .flagLast ∧
      (14#4 : RegIx) ≠ vF := by decide

theorem witness_WriteOrdersAgreeAwayFromVF :
    (1#4 : RegIx) ≠ vF ∧ (14#4 : RegIx) ≠ vF ∧
      Instr.subReg 1 14 ∈ [Instr.addReg 1 14, .subReg 1 14, .shrReg 1 14, .subnReg 1 14, .shlReg 1 14] := by decide

theorem witness_RandomByteIsMaskedByImmediate : (0x7F#8).getLsbD 7 = false := by decide

theorem witness_IndexAddOrOverflow :
    (s0I 0xFFFF [(0, 1)]).index.toNat + ((s0I 0xFFFF [(0, 1)]).v 0).toNat > 0xFFFF ∧
      (s0I 0xFFFF [(0, 0)]).index.toNat + ((s0I 0xFFFF [(0, 0)]).v 0).toNat ≤ 0xFFFF := by decide

theorem witness_DecimalDigitsAreStored :
    (s0I 0xFFE []).index.toNat + 2 > 0xFFF ∧ (s0I 0xFFD []).index.toNat + 2 ≤ 0xFFF ∧
      Memory.wf (s0I 0xFFD []).params.font (s0I 0xFFD []).mem = true := by decide

theorem witness_RegistersAreStored :
    (s0I 0xFF1 []).index.toNat + (15#4).toNat > 0xFFF ∧ (s0I 0xFF0 []).index.toNat + (15#4).toNat ≤ 0xFFF ∧
      Memory.wf (s0I 0xFF0 []).params.font (s0I 0xFF0 []).mem = true ∧ (15#4).toNat ≤ (15#4).toNat := by decide

theorem witness_RegistersAreLoaded :
    (s0I 0xFF1 []).index.toNat + (15#4).toNat > 0xFFF ∧ (s0I 0xFF0 []).index.toNat + (15#4).toNat ≤ 0xFFF ∧
      (15#4).toNat ≤ (15#4).toNat := by decide

theorem witness_StoreThenLoadRestoresRegisters :
    let s := s0I 0xFFE [(0, 0x11), (1, 0x22)]
    let t := { s.writeBytes 0xFFE [0x11, 0x22] with index := 0x1000, pc := 0x202 }
    let u := { t.setV 0 9 with index := 0xFFE }
    Memory.wf s.params.font s.mem = true ∧ s.index.toNat + (1#4).toNat ≤ 0xFFF ∧
      exec (.storeRegs 1) s = .next t ∧ u.mem = t.mem ∧ u.params = t.params ∧ u.index = s.index :=
  ⟨by decide, by decide, eq_next (by decide), rfl, rfl, rfl⟩

theorem witness_StoredBytesAreFetchedAtOnce :
    let s := s0I 0x202 [(0, 0x12), (1, 0x0A)]
    Memory.wf s.params.font s.mem = true ∧ s.index.toNat + (1#4).toNat ≤ 0xFFF ∧
      (1#4).toNat = (0#4).toNat + 1 ∧ (1#4).toNat ≤ (1#4).toNat ∧ s.pc.toNat + 2 = s.index.toNat + (0#4).toNat := by
  decide

/-- The three clauses at the last bytes of memory and the last columns of the screen. -/
theorem witness_DrawFlipsCoveredPixels :
    (¬ InBounds (s0I 0xFFE []) 3) ∧
    (InBounds (s0I 0xFFD []) 3 ∧ InBounds (s0I 0xFFFF []) 0) ∧
    (let s := edgeFault (withSprite [0xFF] [(0, 57)])
     InBounds s 1 ∧ s.params.drawEdge = .fault ∧ SpriteLeavesScreen s 1 57 0) ∧
    (let s := withSprite [0xFF] [(0, 57)]
     InBounds s 1 ∧ (¬ (s.params.drawEdge = .fault ∧ SpriteLeavesScreen s 1 57 0)) ∧
        SpriteCovers s 1 57 0 (63 : Fin 64) (0 : Fin 32) ∧ ¬ SpriteCovers s 1 57 0 (56 : Fin 64) (0 : Fin 32)) := by
  refine ⟨by unfold InBounds; decide, ⟨by unfold InBounds; decide, by unfold InBounds; decide⟩,
    ⟨by unfold InBounds; decide, by decide, 64, 0, by unfold SpriteCovers; decide, by decide⟩,
    ⟨by unfold InBounds; decide, fun h => absurd h.1 (by decide), by unfold SpriteCovers; decide,
      by unfold SpriteCovers; decide⟩⟩

/-- A covered pixel that is set, and a sprite none of whose covered pixels is. -/
theorem witness_DrawFlipsCoveredPixels_collision :
    (let s := { withSprite [0x80] [] with fb := State.reset.fb.set 0 0x8000000000000000 }
     SpriteCovers s 1 0 0 (0 : Fin 64) (0 : Fin 32) ∧ s.pixel 0 0 = true) ∧
    (∀ (px : Fin 64) (py : Fin 32),
      SpriteCovers (withSprite [0x80] []) 1 0 0 px py → (withSprite [0x80] []).pixel px py = false) :=
  ⟨⟨by unfold SpriteCovers; decide, by decide⟩, fun px py _ => Framebuffer.pixel_clear px py⟩

theorem witness_DrawingTwiceRestoresTheScreen :
    let s := withSprite [0xC0] []
    let t := { s.draw [0xC0] 0 0 with pc := 0x202 }
    let u := { t.draw [0xC0] 0 0 with pc := 0x204 }
    s.status = .running ∧ exec (.drw 1 2 1) s = .next t ∧ t.isFaulted = false ∧ t.index = s.index ∧
      t.v 1 = s.v 1 ∧ t.v 2 = s.v 2 ∧ t.params = s.params ∧ t.mem = s.mem ∧ exec (.drw 1 2 1) t = .next u ∧
      s.pixel 0 0 = false :=
  ⟨by decide, eq_next (by decide), by decide, by decide, by decide, by decide, by decide, by decide,
    eq_next (by decide), by decide⟩

theorem witness_ClearThenDrawShowsTheSprite :
    let s := withSprite [0xC0] []
    let t := { s with fb := Framebuffer.clear, drawFlag := true, pc := 0x202 }
    let u := { t.draw [0xC0] 0 0 with pc := 0x204 }
    s.status = .running ∧ exec .cls s = .next t ∧
      exec (.drw 1 2 1) t = .next u ∧ u.isFaulted = false :=
  ⟨by decide, eq_next (by decide), eq_next (by decide), by decide⟩

theorem witness_KeySkipsReadTheKeyArray :
    ((s0 [(5, 16)]).v 5).toNat > 15 ∧ (s0 [(5, 15)]).keys[((s0 [(5, 15)]).v 5).toNat]? = some false ∧
      (keyPressed 15 [(5, 15)]).keys[((keyPressed 15 [(5, 15)]).v 5).toNat]? = some true := by decide

theorem witness_TimerRegistersAreReadAndWritten :
    (s0 [(1, 0)]).v 1 = 0#8 ∧ (s0 [(1, 0)]).status = .running := by decide

theorem witness_TickCountsTimersDown :
    faultedState.isFaulted = true ∧ State.reset.isFaulted = false ∧ waitingState.isFaulted = false ∧
    ({ State.reset with dt := 0 } : State).dt = 0#8 ∧ ({ State.reset with dt := 2 } : State).dt.toNat > 1 ∧
    ({ State.reset with dt := 1 } : State).params.delayAtZero = .hold ∧
    ({ State.reset with dt := 1, params := { Params.default with delayAtZero := .reload60 } } : State).dt = 1#8 := by
  decide

theorem witness_DelayTimerOverManyTicks :
    State.reset.isFaulted = false ∧ State.reset.params.delayAtZero = .hold ∧ State.reset.dt ≠ 0#8 ∧
    (State.resetWith { Params.default with delayAtZero := .reload60 }).params.delayAtZero = .reload60 := by decide

theorem witness_KeyEventsAndDrawAck :
    faultedState.isFaulted = true ∧ State.reset.isFaulted = false ∧ State.reset.status = .running ∧
      waitingState.status = .waitKey 3 := by decide

theorem witness_LoadPlacesTheProgram :
    (List.replicate 3585 0x12#8).length > 3584 ∧ (List.replicate 3584 0x12#8).length ≤ 3584 ∧
      Memory.wf State.reset.params.font State.reset.mem = true ∧ ([0x12#8] : List Byte)[0]? = some 0x12#8 := by
  refine ⟨?_, ?_, rfl, rfl⟩ <;> rw [List.length_replicate]
  decide

theorem witness_FirstStepFetchesTheLoadedProgram : ([0x60#8, 0x2A#8, 0x12#8] : List Byte).length ≤ 3584 := by decide

theorem witness_FaultedIsAbsorbing :
    faultedState.isFaulted = true ∧
      (∀ op ∈ [HostOp.step, .tick, .keyDown 1, .keyUp 1, .drawAck, .debugDump], op ≠ .reset) ∧
      (∀ op ∈ [HostOp.step, .tick, .keyDown 1, .keyUp 1, .drawAck, .debugDump], ∀ bytes, op ≠ .load bytes) ∧
      [HostOp.step, .tick][0]? = some HostOp.step := by
  refine ⟨by decide, by decide, fun op h bytes => ?_, by decide⟩
  simp only [List.mem_cons, List.not_mem_nil, or_false] at h
  rcases h with rfl | rfl | rfl | rfl | rfl | rfl <;> exact fun e => by cases e

theorem witness_OnlyKeyDownOrResetEndsTheWait :
    waitingState.status = .waitKey 3 ∧
      perform .drawAck waitingState = .next (waitingState, .done) ∧
      perform .reset waitingState = .next (State.reset, .done) :=
  ⟨by decide, eq_next (by decide), eq_next (by decide)⟩

/-- Two different states that no program can tell apart, and a Step of one of them. -/
theorem witness_UnreadStateIsNeverObserved :
    let s := place State.reset 0x8124
    let s' := { s with st := 7, drawFlag := true, stack := s.stack.set 0 0x300 }
    s ≠ s' ∧ AlikeToPrograms s s' ∧ step s = .next { s with opcode := 0x8124, pc := 0x202 } := by
  refine ⟨by decide, ⟨fun p hp => ?_, rfl, fun r => rfl, fun j hj => absurd hj (Nat.not_lt_zero j)⟩, eq_next (by decide)⟩
  cases p
  case mem => exact fun a => rfl
  case st | drawFlag | stack => exact absurd hp (by decide)
  all_goals rfl

theorem witness_SelfJumpChangesOnlyTheLatch : EndsWell (place State.reset 0x1200) :=
  ⟨by decide, 0x200, by decide, by decide⟩

end Sys2Proof.Tests
end

/-! Settles O16. The parameters of R11 through the shared operations, then `exec`, `step` and `perform`: each keeps
them. -/

namespace Sys2Proof.Machine

/-! ### Shared operations -/

@[simp] theorem State.skipIf_params (s : State) (c : Bool) : (s.skipIf c).params = s.params := by
  rw [State.skipIf_eq]

@[simp] theorem State.writeBytes_params (s : State) (a : Nat) (bs : List Byte) :
    (s.writeBytes a bs).params = s.params := by
  rw [State.writeBytes_eq]

@[simp] theorem State.writeResultAndFlag_params (s : State) (x y : RegIx) (result flag : Byte → Byte → Byte) :
    (s.writeResultAndFlag x y result flag).params = s.params := by
  rw [State.writeResultAndFlag_eq]

theorem State.push_params {s t : State} {a : Word} (h : s.push a = some t) : t.params = s.params := by
  obtain ⟨-, hp⟩ | ⟨hsp, hp⟩ := s.push_cases a <;> cases hp.symm.trans h
  rfl

theorem State.pop_params {s t : State} {a : Word} (h : s.pop = some (a, t)) : t.params = s.params := by
  obtain ⟨-, hp⟩ | ⟨hsp, hp⟩ := s.pop_cases <;> cases hp.symm.trans h
  rfl

theorem State.memWrite_params {s t : State} {addr : Word} {bs : List Byte} (h : s.memWrite addr bs = some t) :
    t.params = s.params := by
  rw [State.memWrite_eq] at h
  split at h <;> cases h
  exact s.writeBytes_params addr.toNat bs

/-! ### Instructions -/

/-- No instruction changes a parameter. The arms that can fault split on the access, pop, push or check that decides it. -/
theorem exec_params {i : Instr} {s t : State} (h : exec i s = .next t) : t.params = s.params := by
  cases i with
  | ret =>
    simp only [exec, execRet] at h
    split at h <;> cases h
    · rfl
    · next hp => exact (State.pop_params hp :)
  | call nnn =>
    simp only [exec, execCall] at h
    split at h <;> cases h
    · rfl
    · next hp => exact (State.push_params hp :)
  | ldB x =>
    simp only [exec, execLdB] at h
    split at h <;> cases h
    · rfl
    · next hw => exact (State.memWrite_params hw :)
  | storeRegs x =>
    simp only [exec, execStoreRegs] at h
    split at h <;> cases h
    · rfl
    · next hw => exact (State.memWrite_params hw :)
  | loadRegs x =>
    simp only [exec, execLoadRegs] at h
    split at h <;> cases h <;> rfl
  | addI x =>
    simp only [exec, execAddI] at h
    split at h <;> cases h <;> rfl
  | drw x y n =>
    simp only [exec, execDrw] at h
    split at h
    · cases h; rfl
    · split at h <;> cases h <;> rfl
  | skp x =>
    simp only [exec, execSkp] at h
    split at h <;> cases h
    · rfl
    · exact s.skipIf_params _
  | sknp x =>
    simp only [exec, execSknp] at h
    split at h <;> cases h
    · rfl
    · exact s.skipIf_params _
  | seImm | sneImm | seReg | sneReg => cases h; exact State.skipIf_params s _
  | addReg | subReg | shrReg | subnReg | shlReg => cases h; exact State.writeResultAndFlag_params s _ _ _ _
  | _ => cases h; rfl

theorem step_params {s t : State} (h : step s = .next t) : t.params = s.params := by
  obtain ⟨-, hr⟩ | ⟨-, -, hr⟩ | ⟨w, -, -, -, hr⟩ | ⟨w, i, -, -, -, hr⟩ := step_cases h
  · cases hr; rfl
  · cases hr; rfl
  · cases hr; rfl
  · exact (exec_params hr.symm :)

/-! ### Host operations -/

@[simp] theorem State.tick_params (s : State) : s.tick.params = s.params := by
  obtain ⟨-, ht⟩ | ⟨-, ht⟩ := s.tick_cases <;> rw [ht]

@[simp] theorem State.keyDown_params (s : State) (k : KeyIx) : (s.keyDown k).params = s.params := by
  obtain ⟨-, hk⟩ | ⟨-, hk⟩ | ⟨x, -, hk⟩ := s.keyDown_cases k <;> rw [hk] <;> simp

@[simp] theorem State.keyUp_params (s : State) (k : KeyIx) : (s.keyUp k).params = s.params := by
  unfold State.keyUp; split <;> rfl

@[simp] theorem State.drawAck_params (s : State) : s.drawAck.params = s.params := by
  unfold State.drawAck; split <;> rfl

theorem State.load_params {s t : State} {bytes : List Byte} (h : s.load bytes = some t) : t.params = s.params := by
  obtain ⟨-, hl⟩ | ⟨-, hl⟩ := s.load_cases bytes <;> cases hl.symm.trans h
  exact s.writeBytes_params programOrigin bytes

@[simp] theorem State.hostReset_params (s : State) : s.hostReset.params = s.params := rfl

/-- Settles O16, by cases over what the host operation can do to the state. -/
theorem parametersNeverChange : Obligations.ParametersNeverChange := by
  intro op s t o h
  obtain ⟨-, hs⟩ | ⟨-, rfl⟩ | ⟨k, -, rfl⟩ | ⟨k, -, rfl⟩ | ⟨-, rfl⟩ | ⟨bytes, -, hl⟩ | ⟨-, rfl⟩ | ⟨-, rfl⟩ :=
    perform_cases h
  · exact step_params hs
  · exact s.tick_params
  · exact s.keyDown_params k
  · exact s.keyUp_params k
  · exact s.drawAck_params
  · obtain hl | ⟨-, rfl⟩ := hl
    · exact State.load_params hl
    · rfl
  · exact s.hostReset_params
  · rfl

end Sys2Proof.Machine

/-! Settles O17 and O18. The table of what each instruction may write, and that `exec` keeps to it. -/

namespace Sys2Proof.Safety

open Sys2Proof.Machine

/-- `OnlyChanges`, part by part. -/
theorem onlyChanges_iff {P : List Part} {R : RegIx → Prop} {s t : State} :
    OnlyChanges P R s t ↔
      (Part.mem ∉ P → ∀ a, t.readByte a = s.readByte a) ∧ (Part.index ∉ P → t.index = s.index) ∧
      (Part.pc ∉ P → t.pc = s.pc) ∧ (Part.stack ∉ P → t.stack = s.stack) ∧ (Part.sp ∉ P → t.sp = s.sp) ∧
      (Part.fb ∉ P → t.fb = s.fb) ∧ (Part.drawFlag ∉ P → t.drawFlag = s.drawFlag) ∧
      (Part.dt ∉ P → t.dt = s.dt) ∧ (Part.st ∉ P → t.st = s.st) ∧ (Part.keys ∉ P → t.keys = s.keys) ∧
      (Part.opcode ∉ P → t.opcode = s.opcode) ∧ (Part.status ∉ P → t.status = s.status) ∧
      (Part.params ∉ P → t.params = s.params) ∧ (Part.draws ∉ P → t.draws = s.draws) ∧
      ∀ r, ¬ R r → t.v r = s.v r := by
  constructor
  · rintro ⟨hp, hr⟩
    exact ⟨hp .mem, hp .index, hp .pc, hp .stack, hp .sp, hp .fb, hp .drawFlag, hp .dt, hp .st, hp .keys,
      hp .opcode, hp .status, hp .params, hp .draws, hr⟩
  · rintro ⟨_, _, _, _, _, _, _, _, _, _, _, _, _, _, hr⟩
    exact ⟨fun p => by cases p <;> assumption, hr⟩

/-- A fault changes the status alone (R117). -/
theorem onlyChanges_raise (s : State) (f : Fault) : OnlyChanges [.status] noRegs s (s.raise f) := by
  simp [onlyChanges_iff]

end Sys2Proof.Safety

namespace Sys2Proof

open Sys2Proof.Machine Sys2Proof.Safety

/-- The parts that an instruction writes when it does not fault. -/
def Instr.writtenParts : Instr → List Part
  | .cls | .drw _ _ _ => [.pc, .fb, .drawFlag]
  | .ret => [.pc, .sp]
  | .call _ => [.pc, .stack, .sp]
  | .rnd _ _ => [.pc, .draws]
  | .ldI _ | .addI _ | .ldF _ | .loadRegs _ => [.pc, .index]
  | .ldB _ => [.pc, .mem]
  | .storeRegs _ => [.pc, .mem, .index]
  | .ldVxK _ => [.status]
  | .ldDtVx _ => [.pc, .dt]
  | .ldStVx _ => [.pc, .st]
  | _ => [.pc]

/-- The general registers that an instruction writes when it does not fault. -/
def Instr.writtenRegs : Instr → RegIx → Prop
  | .ldImm x _ | .addImm x _ | .ldReg x _ | .orReg x _ | .andReg x _ | .xorReg x _ | .rnd x _ | .ldVxDt x =>
    fun r => r = x
  | .addReg x _ | .subReg x _ | .shrReg x _ | .subnReg x _ | .shlReg x _ => fun r => r = x ∨ r = vF
  | .drw _ _ _ => fun r => r = vF
  | .loadRegs x => fun r => r.toNat ≤ x.toNat
  | _ => noRegs

end Sys2Proof

namespace Sys2Proof.Machine

open Sys2Proof.Safety

/-! ### Reads after an update -/

section
variable (s : State) (mem : Memory) (regs : Vector Byte 16) (index pc : Word) (stack : Vector Word 16) (sp : Fin 17)
  (fb : Framebuffer) (drawFlag : Bool) (dt st : Byte) (keys : Vector Bool 16) (opcode : Word) (status : Status)
  (params : Params) (draws : Nat)

/-- An update that keeps the memory and the parameters keeps every byte. -/
@[simp] theorem State.readByte_update (a : Nat) :
    State.readByte ⟨s.mem, regs, index, pc, stack, sp, fb, drawFlag, dt, st, keys, opcode, status, s.params, draws⟩ a =
      s.readByte a := rfl

/-- An update that keeps the register file keeps every register. -/
@[simp] theorem State.v_update (r : RegIx) :
    State.v ⟨mem, s.regs, index, pc, stack, sp, fb, drawFlag, dt, st, keys, opcode, status, params, draws⟩ r =
      s.v r := rfl

end

theorem State.v_draw_other (s : State) (rows : List Byte) (X Y : Nat) {r : RegIx} (h : r ≠ vF) :
    (s.draw rows X Y).v r = s.v r :=
  s.v_setV_other _ h

/-- A register past the bytes that Fx65 has read keeps its value. -/
theorem State.v_setRegsFrom_other (s : State) {bs : List Byte} {r : RegIx} (h : bs.length ≤ r.toNat) :
    (s.setRegsFrom bs).v r = s.v r := by
  simp [State.v_setRegsFrom, List.getElem?_eq_none h]

theorem State.memRead_length {s : State} {addr : Word} {n : Nat} {bs : List Byte}
    (h : s.memRead addr n = some bs) : bs.length = n := by
  rw [State.memRead_eq] at h
  split at h <;> cases h
  simp

/-- A write to memory changes memory alone. -/
theorem State.memWrite_eq_update {s t : State} {addr : Word} {bs : List Byte} (h : s.memWrite addr bs = some t) :
    t = { s with mem := t.mem } := by
  rw [State.memWrite_eq] at h
  split at h <;> cases h
  exact s.writeBytes_eq addr.toNat bs

theorem State.v_writeResultAndFlag_other (s : State) {x r : RegIx} (y : RegIx) (result flag : Byte → Byte → Byte)
    (hx : r ≠ x) (hf : r ≠ vF) : (s.writeResultAndFlag x y result flag).v r = s.v r := by
  cases ho : s.params.vfWriteOrder with
  | flagFirst => simp only [State.v_writeResultAndFlag_flagFirst ho, if_neg hx.symm, if_neg hf.symm]
  | flagLast => simp only [State.v_writeResultAndFlag_flagLast ho, if_neg hx.symm, if_neg hf.symm]

/-! ### The frame of every instruction -/

/-- An instruction either faults, which raises the fault and nothing else, or writes only what the tables list for
it. -/
theorem exec_frame {i : Instr} {s t : State} (h : exec i s = .next t) :
    (∃ f, t = s.raise f) ∨ OnlyChanges i.writtenParts i.writtenRegs s t := by
  rw [onlyChanges_iff]
  cases i with
  | ret =>
    simp only [exec, execRet] at h
    obtain ⟨-, hp⟩ | ⟨hsp, hp⟩ := s.pop_cases <;> rw [hp] at h <;> cases h
    · exact .inl ⟨_, rfl⟩
    · right; simp [Instr.writtenParts]
  | call nnn =>
    simp only [exec, execCall] at h
    obtain ⟨-, hp⟩ | ⟨hsp, hp⟩ := s.push_cases s.pc <;> rw [hp] at h <;> cases h
    · exact .inl ⟨_, rfl⟩
    · right; simp [Instr.writtenParts]
  | ldB x | storeRegs x =>
    simp only [exec, execLdB, execStoreRegs] at h
    split at h <;> cases h
    · exact .inl ⟨_, rfl⟩
    · next hw => right; rw [State.memWrite_eq_update hw]; simp [Instr.writtenParts]
  | loadRegs x =>
    simp only [exec, execLoadRegs] at h
    split at h <;> cases h
    · exact .inl ⟨_, rfl⟩
    · next hr =>
      right; simp +contextual [Instr.writtenParts, Instr.writtenRegs, State.v_setRegsFrom_other,
        State.memRead_length hr]
  | addI x =>
    simp only [exec, execAddI] at h
    split at h <;> cases h
    · exact .inl ⟨_, rfl⟩
    · right; simp [Instr.writtenParts]
  | drw x y n =>
    simp only [exec, execDrw] at h
    split at h
    · cases h; exact .inl ⟨_, rfl⟩
    · split at h <;> cases h
      · exact .inl ⟨_, rfl⟩
      · right; simp +contextual [Instr.writtenParts, Instr.writtenRegs, State.v_draw_other]
  | skp x | sknp x =>
    simp only [exec, execSkp, execSknp] at h
    split at h <;> cases h
    · exact .inl ⟨_, rfl⟩
    · right; simp [Instr.writtenParts, State.skipIf_eq]
  | seImm | sneImm | seReg | sneReg =>
    cases h; right; simp [Instr.writtenParts, State.skipIf_eq]
  | addReg | subReg | shrReg | subnReg | shlReg =>
    cases h; right
    rw [State.writeResultAndFlag_eq]
    simp +contextual [Instr.writtenParts, Instr.writtenRegs, State.v_writeResultAndFlag_other]
  | ldImm | addImm | ldReg | orReg | andReg | xorReg | ldVxDt | rnd =>
    cases h; right; simp +contextual [Instr.writtenParts, Instr.writtenRegs, State.v_setV_other]
  | cls | jp | ldI | jpV0 | ldVxK | ldDtVx | ldStVx | ldF => cases h; right; simp [Instr.writtenParts]

/-- Every part but the status is unchanged or listed, whether the instruction faults or not. -/
theorem exec_same_or_written {i : Instr} {s t : State} (h : exec i s = .next t) (p : Part)
    (hp : p ≠ .status := by decide) :
    p.same s t ∨ p ∈ i.writtenParts := by
  obtain ⟨f, rfl⟩ | ⟨hparts, -⟩ := exec_frame h
  · exact .inl ((onlyChanges_raise s f).1 p (by simpa using hp))
  · exact (em (p ∈ i.writtenParts)).symm.imp_left (hparts p)

theorem exec_status {i : Instr} {s t : State} (h : exec i s = .next t) :
    t.status = s.status ∨ t.isFaulted = true ∨ ∃ x, i = .ldVxK x := by
  obtain ⟨f, rfl⟩ | ⟨hparts, -⟩ := exec_frame h
  · exact .inr (.inl ((State.isFaulted_iff _).mpr ⟨_, _, _, rfl⟩))
  · by_cases hs : Part.status ∈ i.writtenParts
    · right; right; cases i <;> simp [Instr.writtenParts] at hs ⊢
    · exact .inl (hparts .status hs)

/-- The table of written parts read by part: the writers that 10_state.md names. -/
theorem writers_of_part (i : Instr) :
    (Part.fb ∈ i.writtenParts → i = .cls ∨ ∃ x y n, i = .drw x y n) ∧
    (Part.drawFlag ∈ i.writtenParts → i = .cls ∨ ∃ x y n, i = .drw x y n) ∧
    (Part.dt ∈ i.writtenParts → ∃ x, i = .ldDtVx x) ∧
    (Part.st ∈ i.writtenParts → ∃ x, i = .ldStVx x) ∧
    (Part.stack ∈ i.writtenParts → ∃ nnn, i = .call nnn) ∧
    (Part.sp ∈ i.writtenParts → i = .ret ∨ ∃ nnn, i = .call nnn) ∧
    (Part.index ∈ i.writtenParts → (∃ nnn, i = .ldI nnn) ∨
      ∃ x, i = .addI x ∨ i = .ldF x ∨ i = .storeRegs x ∨ i = .loadRegs x) ∧
    (Part.mem ∈ i.writtenParts → ∃ x, i = .ldB x ∨ i = .storeRegs x) ∧
    Part.keys ∉ i.writtenParts ∧ Part.opcode ∉ i.writtenParts := by
  cases i <;> simp [Instr.writtenParts]

/-- Settles O17, from the frame of every instruction. -/
theorem onlyNamedInstructionsWriteEachPart : Obligations.OnlyNamedInstructionsWriteEachPart := by
  intro i s t h
  obtain ⟨hfb, hflag, hdt, hst, hstack, hsp, hindex, hmem, hkeys, hopcode⟩ := writers_of_part i
  have part := @exec_same_or_written i s t h
  exact ⟨and_or_right.mpr ⟨(part .fb).imp_right hfb, (part .drawFlag).imp_right hflag⟩,
    (part .dt).imp_right hdt, (part .st).imp_right hst, (part .stack).imp_right hstack,
    (part .sp).imp_right hsp, (part .index).imp_right hindex, (part .mem).imp_right hmem,
    (part .keys).resolve_right hkeys, (part .opcode).resolve_right hopcode, exec_status h⟩

/-- An instruction writes a register only if the table lists it. -/
theorem exec_writtenRegs {i : Instr} {s t : State} (h : exec i s = .next t) {r : RegIx} (hr : t.v r ≠ s.v r) :
    i.writtenRegs r := by
  obtain ⟨f, rfl⟩ | ⟨-, hregs⟩ := exec_frame h
  · exact absurd rfl hr
  · exact not_not.mp fun hn => hr (hregs r hn)

/-- Settles O18: the rows of the table of written registers that VF is in. -/
theorem onlyFlagInstructionsWriteVF : Obligations.OnlyFlagInstructionsWriteVF := by
  intro i s t h hv
  have hw := exec_writtenRegs h hv
  cases i with
  | loadRegs x =>
    have hx : vF = x := BitVec.eq_of_toNat_eq (Nat.le_antisymm hw (Nat.le_of_lt_succ x.isLt))
    simp [← hx]
  | _ => simp_all [Instr.writtenRegs, noRegs]

end Sys2Proof.Machine

/-! Settles O56. A state that differs from another only in what no instruction reads is that state with other values
there (`State.withUnread`), and every operation commutes with putting them there. -/

namespace Sys2Proof.Machine

open Sys2Proof.Safety

/-- Values for the state that no instruction reads: ST, draw_flag, and the stack, whose live entries are read. -/
structure Unread where
  st : Byte
  drawFlag : Bool
  stack : Vector Word 16

/-- The stack of `u` has the live entries of `s`. -/
def Unread.AgreesLive (u : Unread) (s : State) : Prop := ∀ j, j < s.sp.val → u.stack[j]? = s.stack[j]?

/-- `s` with the values of `u`. -/
def State.withUnread (s : State) (u : Unread) : State :=
  { s with st := u.st, drawFlag := u.drawFlag, stack := u.stack }

/-- The relation of O56 in terms of `withUnread`. -/
theorem alikeToPrograms_iff {s s' : State} :
    AlikeToPrograms s s' ↔ ∃ u : Unread, u.AgreesLive s ∧ s' = s.withUnread u := by
  constructor
  · rintro ⟨hparts, hmem, hregs, hlive⟩
    refine ⟨⟨s'.st, s'.drawFlag, s'.stack⟩, hlive, ?_⟩
    have hregs' : s'.regs = s.regs := State.regs_ext hregs
    have := onlyChanges_iff.mp ⟨hparts, fun r (_ : ¬ noRegs r) => hregs r⟩
    cases s'
    simp_all [State.withUnread]
  · rintro ⟨u, hlive, rfl⟩
    have h : OnlyChanges [.st, .drawFlag, .stack] noRegs s (s.withUnread u) := by
      simp [onlyChanges_iff, State.withUnread]
    exact ⟨h.1, rfl, fun r => h.2 r id, hlive⟩

section
variable (s : State) (u : Unread)

/-! ### What an instruction reads -/

@[simp] theorem State.withUnread_status : (s.withUnread u).status = s.status := rfl

@[simp] theorem State.withUnread_pc : (s.withUnread u).pc = s.pc := rfl

@[simp] theorem State.withUnread_index : (s.withUnread u).index = s.index := rfl

@[simp] theorem State.withUnread_params : (s.withUnread u).params = s.params := rfl

@[simp] theorem State.withUnread_v (r : RegIx) : (s.withUnread u).v r = s.v r := rfl

@[simp] theorem State.withUnread_regsUpTo (x : RegIx) : (s.withUnread u).regsUpTo x = s.regsUpTo x := rfl

@[simp] theorem State.withUnread_keyAt (k : Byte) : (s.withUnread u).keyAt k = s.keyAt k := rfl

@[simp] theorem State.withUnread_memRead (addr : Word) (n : Nat) :
    (s.withUnread u).memRead addr n = s.memRead addr n := rfl

@[simp] theorem State.withUnread_fetch : (s.withUnread u).fetch = s.fetch := rfl

/-! ### What an instruction writes -/

@[simp] theorem State.withUnread_raise (f : Fault) : (s.withUnread u).raise f = (s.raise f).withUnread u := rfl

@[simp] theorem State.withUnread_latch (w : Word) : (s.withUnread u).latch w = (s.latch w).withUnread u := rfl

@[simp] theorem State.withUnread_next : (s.withUnread u).next = (s.next).withUnread u := rfl

@[simp] theorem State.withUnread_jumpTo (a : Word) : (s.withUnread u).jumpTo a = (s.jumpTo a).withUnread u := rfl

@[simp] theorem State.withUnread_draw (rows : List Byte) (X Y : Nat) :
    (s.withUnread u).draw rows X Y = (s.draw rows X Y).withUnread { u with drawFlag := true } := rfl

@[simp] theorem State.withUnread_skipIf (c : Bool) : (s.withUnread u).skipIf c = (s.skipIf c).withUnread u := by
  cases c <;> rfl

@[simp] theorem State.withUnread_writeResultAndFlag (x y : RegIx) (result flag : Byte → Byte → Byte) :
    (s.withUnread u).writeResultAndFlag x y result flag = (s.writeResultAndFlag x y result flag).withUnread u := by
  unfold State.writeResultAndFlag
  rw [State.withUnread_params]
  cases s.params.vfWriteOrder <;> rfl

theorem State.withUnread_writeBytes (a : Nat) (bs : List Byte) :
    (s.withUnread u).writeBytes a bs = (s.writeBytes a bs).withUnread u := by
  induction bs generalizing s a with
  | nil => rfl
  | cons b bs ih => exact ih (s.writeByte a b) (a + 1)

@[simp] theorem State.withUnread_memWrite (addr : Word) (bs : List Byte) :
    (s.withUnread u).memWrite addr bs = (s.memWrite addr bs).map (·.withUnread u) := by
  simp only [State.memWrite_eq, State.withUnread_writeBytes]
  split <;> rfl

end

/-- A pop reads a live entry. -/
theorem State.withUnread_pop {s t : State} {u : Unread} {a : Word} (hu : u.AgreesLive s) (h : s.pop = some (a, t)) :
    u.AgreesLive t ∧ (s.withUnread u).pop = some (a, t.withUnread u) := by
  obtain ⟨-, hp⟩ | ⟨hsp, hp⟩ := s.pop_cases <;> cases hp.symm.trans h
  have hlt := s.sp.isLt
  have htop : u.stack[s.sp.val - 1] = s.stack[s.sp.val - 1] := by
    simpa [show s.sp.val - 1 < 16 by omega] using hu (s.sp.val - 1) (by omega)
  exact ⟨fun j hj => hu j (Nat.lt_of_lt_of_le hj (Nat.sub_le _ 1)), by simp [State.pop, State.withUnread, hsp, htop]⟩

/-- Whether a pop or a push can be made depends on sp alone. -/
theorem State.withUnread_pop_none {s : State} (u : Unread) (h : s.pop = none) : (s.withUnread u).pop = none := by
  obtain ⟨h0, -⟩ | ⟨_, hp⟩ := s.pop_cases
  · simp [State.pop, State.withUnread, h0]
  · cases hp.symm.trans h

theorem State.withUnread_push_none {s : State} (u : Unread) {a : Word} (h : s.push a = none) :
    (s.withUnread u).push a = none := by
  obtain ⟨h16, -⟩ | ⟨_, hp⟩ := s.push_cases a
  · simp [State.push, State.withUnread, h16]
  · cases hp.symm.trans h

/-- A push puts the same entry on both stacks. -/
theorem State.withUnread_push {s t : State} {u : Unread} {a : Word} (hu : u.AgreesLive s) (h : s.push a = some t) :
    ∃ u' : Unread, u'.AgreesLive t ∧ (s.withUnread u).push a = some (t.withUnread u') := by
  obtain ⟨-, hp⟩ | ⟨hsp, hp⟩ := s.push_cases a <;> cases hp.symm.trans h
  refine ⟨{ u with stack := u.stack.set s.sp.val a }, fun j hj => ?_, by simp [State.push, State.withUnread, hsp]⟩
  obtain rfl | hlt := Nat.eq_or_lt_of_le (Nat.le_of_lt_succ hj)
  · simp [hsp]
  · simpa [Vector.getElem?_set, Nat.ne_of_gt hlt] using hu j hlt

/-! ### Instructions and steps -/

theorem exec_withUnread {i : Instr} {s t : State} {u : Unread} (hu : u.AgreesLive s) (h : exec i s = .next t) :
    ∃ u' : Unread, u'.AgreesLive t ∧ exec i (s.withUnread u) = .next (t.withUnread u') := by
  cases i with
  | cls => cases h; exact ⟨{ u with drawFlag := true }, hu, rfl⟩
  | ldStVx x => cases h; exact ⟨{ u with st := s.v x }, hu, rfl⟩
  | drw x y n =>
    simp only [exec, execDrw] at h
    split at h
    · next hr => cases h; exact ⟨u, hu, by simp [exec, execDrw, hr]⟩
    · next hr =>
      split at h <;> cases h
      · next he => exact ⟨u, hu, by simp [exec, execDrw, hr, he]⟩
      · next he =>
        refine ⟨{ u with drawFlag := true }, hu, ?_⟩
        simp only [exec, execDrw, State.withUnread_index, State.withUnread_memRead, hr]
        exact if_neg he
  | call nnn =>
    simp only [exec, execCall] at h
    split at h <;> cases h
    · next hp => exact ⟨u, hu, by simp [exec, execCall, State.withUnread_push_none u hp]⟩
    · next hp =>
      obtain ⟨u', hu', hp'⟩ := State.withUnread_push hu hp
      exact ⟨u', hu', by simp [exec, execCall, hp']⟩
  | ret =>
    simp only [exec, execRet] at h
    split at h <;> cases h
    · next hp => exact ⟨u, hu, by simp [exec, execRet, State.withUnread_pop_none u hp]⟩
    · next hp =>
      obtain ⟨hu', hp'⟩ := State.withUnread_pop hu hp
      exact ⟨u, hu', by simp [exec, execRet, hp']⟩
  | addI x =>
    simp only [exec, execAddI] at h
    split at h <;> cases h
    · next hc => exact ⟨u, hu, if_pos hc⟩
    · next hc => exact ⟨u, hu, if_neg hc⟩
  | loadRegs x =>
    simp only [exec, execLoadRegs] at h
    split at h <;> cases h
    · next hr => exact ⟨u, hu, by simp [exec, execLoadRegs, hr]⟩
    · next hr =>
      refine ⟨u, hu, ?_⟩
      simp only [exec, execLoadRegs, State.withUnread_index, State.withUnread_memRead, hr]
      rfl
  | ldB x =>
    simp only [exec, execLdB] at h
    split at h <;> cases h
    · next hw => exact ⟨u, hu, by simp [exec, execLdB, hw]⟩
    · next hw =>
      exact ⟨u, by rw [State.memWrite_eq_update hw]; exact hu, by simp [exec, execLdB, hw]⟩
  | storeRegs x =>
    simp only [exec, execStoreRegs] at h
    split at h <;> cases h
    · next hw => exact ⟨u, hu, by simp [exec, execStoreRegs, hw]⟩
    · next hw =>
      refine ⟨u, by rw [State.memWrite_eq_update hw]; exact hu, ?_⟩
      simp only [exec, execStoreRegs, State.withUnread_index, State.withUnread_regsUpTo, State.withUnread_memWrite,
        hw, Option.map]
      rfl
  | skp x | sknp x =>
    simp only [exec, execSkp, execSknp] at h
    split at h <;> cases h
    · next hk => exact ⟨u, hu, by simp [exec, execSkp, execSknp, hk]⟩
    · next hk => exact ⟨u, by rw [State.skipIf_eq]; exact hu, by simp [exec, execSkp, execSknp, hk]⟩
  | seImm | sneImm | seReg | sneReg =>
    cases h
    exact ⟨u, by rw [State.skipIf_eq]; exact hu, congrArg Host.Outcome.next (s.withUnread_skipIf u _)⟩
  | addReg | subReg | shrReg | subnReg | shlReg =>
    cases h
    exact ⟨u, by rw [State.writeResultAndFlag_eq]; exact hu,
      congrArg (fun t : State => Host.Outcome.next t.next) (s.withUnread_writeResultAndFlag u _ _ _ _)⟩
  | _ => cases h; exact ⟨u, hu, rfl⟩

theorem step_withUnread {s t : State} {u : Unread} (hu : u.AgreesLive s) (h : step s = .next t) :
    ∃ u' : Unread, u'.AgreesLive t ∧ step (s.withUnread u) = .next (t.withUnread u') := by
  obtain ⟨hs, hr⟩ | ⟨hs, hf, hr⟩ | ⟨w, hs, hf, hd, hr⟩ | ⟨w, i, hs, hf, hd, hr⟩ := step_cases h
  · cases hr
    refine ⟨u, hu, ?_⟩
    cases hk : s.status with
    | running => exact absurd hk hs
    | waitKey x => simp [step, hk]
    | faulted f p o => simp [step, hk]
  · cases hr; exact ⟨u, hu, by simp [step, hs, hf]⟩
  · cases hr; exact ⟨u, hu, by simp [step, hs, hf, hd]⟩
  · have hlatch : u.AgreesLive (s.latch w) := hu
    obtain ⟨u', hu', he⟩ := exec_withUnread hlatch hr.symm
    exact ⟨u', hu', by simp [step, hs, hf, hd, he]⟩

/-- Settles O56, through `withUnread`: a Step of the one state is a Step of the other. -/
theorem unreadStateIsNeverObserved : Obligations.UnreadStateIsNeverObserved := by
  intro s s' t halike h
  obtain ⟨u, hu, rfl⟩ := alikeToPrograms_iff.mp halike
  obtain ⟨u', hu', h'⟩ := step_withUnread hu h
  exact ⟨t.withUnread u', h', alikeToPrograms_iff.mpr ⟨u', hu', rfl⟩⟩

end Sys2Proof.Machine

/-! Settles O12, O51 and O55. The reset state field by field, and the framebuffer as the Renderer reads it. -/

namespace Sys2Proof.Machine

open Sys2Proof.Safety

/-! ### Reset -/

/-- No byte of the reset memory is listed, so each reads as the font or as 0 (R39). -/
@[simp] theorem State.readByte_hostReset (s : State) (a : Nat) :
    s.hostReset.readByte a = Memory.unlisted s.params.font a := rfl

@[simp] theorem State.v_hostReset (s : State) (r : RegIx) : s.hostReset.v r = 0#8 := by
  simp [State.hostReset, State.resetWith, State.v]

@[simp] theorem State.pixel_hostReset (s : State) (px : Fin 64) (py : Fin 32) :
    s.hostReset.pixel px py = false := Framebuffer.pixel_clear px py

@[simp] theorem State.key_hostReset (s : State) (k : KeyIx) : s.hostReset.key k = false := by
  simp [State.hostReset, State.resetWith, State.key]

@[simp] theorem State.stack_hostReset (s : State) : s.hostReset.stack = Vector.replicate 16 0#16 := rfl

theorem State.resetWith_invariant (p : Params) : StateInvariant (State.resetWith p) where
  memory := State.resetWith_memoryWf p
  pcBound := (by decide : (0x200#16).toNat ≤ highestPc)
  stackBound j := by simp [State.resetWith]
  waitPc x h := nomatch h
  faultRecord f q o h := nomatch h

/-- Settles O12. -/
theorem resetMeetsInvariant : Obligations.ResetMeetsInvariant :=
  ⟨State.resetWith_invariant Params.default, State.resetWith_invariant⟩

/-- Settles O51. What reads the state has its lemma above; the plain fields hold their values by definition. -/
theorem resetGivesEveryFieldItsValue : Obligations.ResetGivesEveryFieldItsValue := by
  intro s
  have font (a : Nat) (h : a < 80) : s.hostReset.readByte a = s.params.font[a] := by simp [Memory.unlisted, h]
  have zeros (a : Nat) (h : 80 ≤ a) : s.hostReset.readByte a = 0#8 := by
    simp [Memory.unlisted, Nat.not_lt.mpr h]
  exact ⟨font, zeros, s.v_hostReset, rfl, rfl, fun j h => by simp, rfl, s.pixel_hostReset, rfl, rfl, rfl,
    s.key_hostReset, rfl, rfl⟩

/-! ### What the Renderer reads -/

/-- In lists of one length `n` joined end to end, entry j of list i stands at j + i * n. -/
theorem getElem?_flatMap_of_length {α β : Type} {f : α → List β} {n : Nat} (hf : ∀ a, (f a).length = n)
    (l : List α) {j : Nat} (hj : j < n) (i : Nat) :
    (l.flatMap f)[j + i * n]? = l[i]?.bind fun a => (f a)[j]? := by
  induction l generalizing i with
  | nil => simp
  | cons a l ih =>
    cases i with
    | zero => simp [List.getElem?_append_left, hf, hj]
    | succ i =>
      have past : (f a).length ≤ j + (i + 1) * n := by rw [hf, Nat.succ_mul]; omega
      rw [List.flatMap_cons, List.getElem?_append_right past, hf,
        show j + (i + 1) * n - n = j + i * n by rw [Nat.succ_mul]; omega, ih]
      rfl

/-- Settles O55: 32 rows of 64 pixels, joined end to end. -/
theorem rendererReadsPixelsRowMajor : Obligations.RendererReadsPixelsRowMajor := by
  intro s
  have row (py : Fin 32) : ((List.finRange 64).map fun px => s.pixel px py).length = 64 := by simp
  constructor
  · simp [State.graphics]
  · intro px py
    rw [State.graphics, getElem?_flatMap_of_length row _ px.isLt]
    simp

end Sys2Proof.Machine

/-! Settles O38. What Fx55 stores in bounds, and the fetch of two of its bytes. -/

namespace Sys2Proof.Machine

/-- Fx55 that stays in bounds, as an equation (R103). -/
theorem exec_storeRegs_inBounds {s : State} {x : RegIx} (hx : s.index.toNat + x.toNat ≤ 0xFFF) :
    exec (.storeRegs x) s =
      .next ({ s.writeBytes s.index.toNat (s.regsUpTo x) with index := indexAfter s.index x } : State).next := by
  have hin : ¬ (0 < (s.regsUpTo x).length ∧ s.index.toNat + (s.regsUpTo x).length - 1 > 0xFFF) := by
    rw [State.regsUpTo_length]; omega
  simp only [exec, execStoreRegs, State.memWrite_eq, if_neg hin]

/-- The bytes that hold V0..Vx, written in bounds, read back as the registers. -/
theorem State.readByte_writeBytes_regsUpTo {s : State} (hwf : s.MemoryWf) {a : Nat} {x j : RegIx}
    (hx : a + x.toNat ≤ 0xFFF) (hj : j.toNat ≤ x.toNat) :
    (s.writeBytes a (s.regsUpTo x)).readByte (a + j.toNat) = s.v j := by
  have hlen := s.regsUpTo_length x
  have hm : memSize = 4096 := rfl
  rw [State.readByte_writeBytes_same hwf (by omega) (by omega), State.regsUpTo_getElem]

/-- Where pc and the byte after it are in memory, the word fetched is the two bytes, the first one high (R63). -/
theorem State.fetch_of_bytes {s : State} {hi lo : Byte} (hpc : s.pc.toNat + 1 ≤ 0xFFF)
    (hhi : s.readByte s.pc.toNat = hi) (hlo : s.readByte (s.pc.toNat + 1) = lo) :
    s.fetch = some (hi ++ lo) := by
  rw [State.fetch_eq, if_neg (Nat.not_lt.mpr hpc), hhi, hlo]
  rfl

/-- Settles O38: pc + 2 is the address of V[j]'s byte and the next address that of V[k]'s, and both read back. -/
theorem storedBytesAreFetchedAtOnce : Obligations.StoredBytesAreFetchedAtOnce := by
  intro x j k s hwf hx hk hkx hpc
  refine ⟨_, exec_storeRegs_inBounds hx, ?_⟩
  have stored (r : RegIx) (hr : r.toNat ≤ x.toNat) := State.readByte_writeBytes_regsUpTo hwf hx hr
  rw [State.writeBytes_eq] at stored ⊢
  have hnext : (s.pc + 2#16).toNat = s.index.toNat + j.toNat := by
    bv_omega
  apply State.fetch_of_bytes
  · simp only [State.next_pc, hnext]; omega
  · simp only [State.next_pc, hnext]
    exact stored j (by omega)
  · simp only [State.next_pc, hnext, Nat.add_assoc, ← hk]
    exact stored k hkx

end Sys2Proof.Machine

/-! Settles O5, O1, O2, O3 and O4. `decode` and `encode` are inverse to each other, a row of the opcode table accepts
exactly the words of its own instruction, and the illegal words are those of R68. -/

namespace Sys2Proof.Laws

/-- Settles O5. -/
theorem workedWordsDecodeAsListed : Obligations.WorkedWordsDecodeAsListed :=
  ⟨rfl, rfl, rfl, rfl, rfl⟩

/-! ### Round trips -/

/-- The fields of the format that `encode` builds choose the family, choose the case in it, and give the operands. -/
theorem decode_encode (i : Instr) : decode (encode i) = .ok i := by
  cases i with
  | cls | ret => rfl
  | jp | call | ldI | jpV0 => simp [encode, decode]
  | seImm | sneImm | ldImm | addImm | rnd => simp [encode, decode]
  | seReg | sneReg | drw => simp [encode, decode]
  | ldReg | orReg | andReg | xorReg | addReg | subReg | shrReg | subnReg | shlReg =>
    simp [encode, decode, decodeFamily8]
  | skp | sknp => simp [encode, decode, decodeFamilyE]
  | ldVxDt | ldVxK | ldDtVx | ldStVx | addI | ldF | ldB | storeRegs | loadRegs =>
    simp [encode, decode, decodeFamilyF]

/-- Settles O1. -/
theorem decodeOfEncodeIsTheInstruction : Obligations.DecodeOfEncodeIsTheInstruction :=
  decode_encode

theorem encode_of_decodeFamily0 {w : Word} {i : Instr} (h : decodeFamily0 w = .ok i) : encode i = w := by
  unfold decodeFamily0 at h
  split at h
  · next hw => cases h; exact hw.symm
  · split at h <;> cases h
    next hw => exact hw.symm

theorem encode_of_decodeFamily8 {w : Word} {i : Instr} (hop : opField w = 0x8#4) (h : decodeFamily8 w = .ok i) :
    encode i = w := by
  have hw := formatXYN_of_fields w
  unfold decodeFamily8 at h
  split at h <;> cases h <;> next hn => rw [hop, hn] at hw; exact hw

theorem encode_of_decodeFamilyE {w : Word} {i : Instr} (hop : opField w = 0xE#4) (h : decodeFamilyE w = .ok i) :
    encode i = w := by
  have hw := formatXK_of_fields w
  unfold decodeFamilyE at h
  split at h <;> cases h <;> next hn => rw [hop, hn] at hw; exact hw

theorem encode_of_decodeFamilyF {w : Word} {i : Instr} (hop : opField w = 0xF#4) (h : decodeFamilyF w = .ok i) :
    encode i = w := by
  have hw := formatXK_of_fields w
  unfold decodeFamilyF at h
  split at h <;> cases h <;> next hn => rw [hop, hn] at hw; exact hw

/-- The families that `decode` lists are all but family F. -/
theorem eq_familyF : ∀ op : Nibble, op ∉ [0x0#4, 0x1#4, 0x2#4, 0x3#4, 0x4#4, 0x5#4, 0x6#4, 0x7#4, 0x8#4, 0x9#4,
    0xA#4, 0xB#4, 0xC#4, 0xD#4, 0xE#4] → op = 0xF#4 := by
  decide

/-- By family: the word is the format of its own fields, and the family fixes those that are no operands. -/
theorem encode_of_decode {w : Word} {i : Instr} (h : decode w = .ok i) : encode i = w := by
  have hA := formatA_of_fields w
  have hXK := formatXK_of_fields w
  have hXYN := formatXYN_of_fields w
  unfold decode at h
  split at h
  case h_1 => exact encode_of_decodeFamily0 h
  case h_9 hop => exact encode_of_decodeFamily8 hop h
  case h_15 hop => exact encode_of_decodeFamilyE hop h
  case h_16 => exact encode_of_decodeFamilyF (eq_familyF _ (by simp_all)) h
  case h_2 hop | h_3 hop | h_11 hop | h_12 hop => cases h; rw [hop] at hA; exact hA
  case h_4 hop | h_5 hop | h_7 hop | h_8 hop | h_13 hop => cases h; rw [hop] at hXK; exact hXK
  case h_14 hop => cases h; rw [hop] at hXYN; exact hXYN
  case h_6 hop | h_10 hop =>
    split at h <;> cases h
    next hn => rw [hop, hn] at hXYN; exact hXYN

/-- Settles O2. -/
theorem encodeOfDecodeIsTheWord : Obligations.EncodeOfDecodeIsTheWord :=
  fun _ _ => encode_of_decode

/-! ### Fixed bits and fields -/

section
variable (v w : Word)

theorem opField_and : opField (w &&& v) = opField w &&& opField v := BitVec.extractLsb'_and

theorem nField_and : nField (w &&& v) = nField w &&& nField v := BitVec.extractLsb'_and

theorem nnField_and : nnField (w &&& v) = nnField w &&& nnField v := BitVec.extractLsb'_and

theorem and_family : w &&& 0xF000#16 = (opField w).setWidth 16 <<< 12 := by
  rw [← formatXK_and_family, formatXK_of_fields]

theorem and_lowNibble : w &&& 0x000F#16 = (nField w).setWidth 16 := by
  rw [← formatXYN_and_lowNibble, formatXYN_of_fields]

theorem and_lowByte : w &&& 0x00FF#16 = (nnField w).setWidth 16 := by
  rw [← formatXK_and_lowByte, formatXK_of_fields]

theorem and_subNibble : w &&& 0xF00F#16 = (opField w).setWidth 16 <<< 12 ||| (nField w).setWidth 16 := by
  rw [← formatXYN_and_subNibble, formatXYN_of_fields]

theorem and_subByte : w &&& 0xF0FF#16 = (opField w).setWidth 16 <<< 12 ||| (nnField w).setWidth 16 := by
  rw [← formatXK_and_subByte, formatXK_of_fields]

end

/-- A mask whose bits are those of a field (or of some fields) compares that field. -/
theorem and_eq_iff_field {β : Type} {m : Word} {field : Word → β} {place : β → Word}
    (hplace : ∀ w, w &&& m = place (field w)) (hread : ∀ w, field (w &&& m) = field w) {w c : Word}
    (hc : c &&& m = c) : w &&& m = c ↔ field w = field c := by
  constructor
  · rintro rfl
    exact (hread w).symm
  · intro h
    rw [hplace, h, ← hplace, hc]

section
variable {w c : Word}

/-! The masks of R62 and of the opcode table, on a value `c` without a bit outside the mask. The field of `c` is written
as its bits (R58), which `simp` computes for a literal. -/

theorem and_family_eq_iff (hc : c &&& 0xF000#16 = c) : w &&& 0xF000#16 = c ↔ opField w = c.extractLsb' 12 4 :=
  and_eq_iff_field (field := opField) (place := (·.setWidth 16 <<< 12)) and_family
    (fun w => (opField_and _ w).trans BitVec.and_allOnes) hc

theorem and_lowNibble_eq_iff (hc : c &&& 0x000F#16 = c) : w &&& 0x000F#16 = c ↔ nField w = c.extractLsb' 0 4 :=
  and_eq_iff_field (field := nField) and_lowNibble (fun w => (nField_and _ w).trans BitVec.and_allOnes) hc

theorem and_lowByte_eq_iff (hc : c &&& 0x00FF#16 = c) : w &&& 0x00FF#16 = c ↔ nnField w = c.extractLsb' 0 8 :=
  and_eq_iff_field (field := nnField) and_lowByte (fun w => (nnField_and _ w).trans BitVec.and_allOnes) hc

theorem and_subNibble_eq_iff (hc : c &&& 0xF00F#16 = c) :
    w &&& 0xF00F#16 = c ↔ opField w = c.extractLsb' 12 4 ∧ nField w = c.extractLsb' 0 4 :=
  (and_eq_iff_field (field := fun w => (opField w, nField w))
    (place := fun p => p.1.setWidth 16 <<< 12 ||| p.2.setWidth 16) and_subNibble
    (fun w => Prod.ext ((opField_and _ w).trans BitVec.and_allOnes) ((nField_and _ w).trans BitVec.and_allOnes))
    hc).trans Prod.mk_inj

theorem and_subByte_eq_iff (hc : c &&& 0xF0FF#16 = c) :
    w &&& 0xF0FF#16 = c ↔ opField w = c.extractLsb' 12 4 ∧ nnField w = c.extractLsb' 0 8 :=
  (and_eq_iff_field (field := fun w => (opField w, nnField w))
    (place := fun p => p.1.setWidth 16 <<< 12 ||| p.2.setWidth 16) and_subByte
    (fun w => Prod.ext ((opField_and _ w).trans BitVec.and_allOnes) ((nnField_and _ w).trans BitVec.and_allOnes))
    hc).trans Prod.mk_inj

theorem and_whole : w &&& 0xFFFF#16 = w := BitVec.and_allOnes

end

/-! ### Rows of the opcode table -/

/-- The fixed bits of a row are the fields that lead the decoder to the row's instruction. -/
theorem decode_of_accepts {w : Word} {k : Nat} {r : OpcodeRow} (hr : opcodeTable[k]? = some r)
    (h : r.accepts w = true) : ∃ i, decode w = .ok i ∧ i.rowNumber = k := by
  have hk : k < 34 := (List.getElem?_eq_some_iff.mp hr).1
  rw [OpcodeRow.accepts, beq_iff_eq] at h
  interval_cases k <;> cases hr
  · exact ⟨.cls, by rw [← and_whole (w := w), h]; rfl, rfl⟩
  · exact ⟨.ret, by rw [← and_whole (w := w), h]; rfl, rfl⟩
  all_goals
    simp only [and_family_eq_iff, and_subNibble_eq_iff, and_subByte_eq_iff, BitVec.reduceAnd,
      BitVec.reduceExtractLsb'] at h
    simp [decode, decodeFamily8, decodeFamilyE, decodeFamilyF, h, Instr.rowNumber]

/-- The word of every instruction is well formed and accepted by the instruction's row. -/
theorem encodingFits : ∀ i : Instr, EncodingFits.Statement i
  | .cls => EncodingFits.cls
  | .ret => EncodingFits.ret
  | .jp nnn => EncodingFits.jp nnn
  | .call nnn => EncodingFits.call nnn
  | .seImm x nn => EncodingFits.seImm x nn
  | .sneImm x nn => EncodingFits.sneImm x nn
  | .seReg x y => EncodingFits.seReg x y
  | .ldImm x nn => EncodingFits.ldImm x nn
  | .addImm x nn => EncodingFits.addImm x nn
  | .ldReg x y => EncodingFits.ldReg x y
  | .orReg x y => EncodingFits.orReg x y
  | .andReg x y => EncodingFits.andReg x y
  | .xorReg x y => EncodingFits.xorReg x y
  | .addReg x y => EncodingFits.addReg x y
  | .subReg x y => EncodingFits.subReg x y
  | .shrReg x y => EncodingFits.shrReg x y
  | .subnReg x y => EncodingFits.subnReg x y
  | .shlReg x y => EncodingFits.shlReg x y
  | .sneReg x y => EncodingFits.sneReg x y
  | .ldI nnn => EncodingFits.ldI nnn
  | .jpV0 nnn => EncodingFits.jpV0 nnn
  | .rnd x nn => EncodingFits.rnd x nn
  | .drw x y n => EncodingFits.drw x y n
  | .skp x => EncodingFits.skp x
  | .sknp x => EncodingFits.sknp x
  | .ldVxDt x => EncodingFits.ldVxDt x
  | .ldVxK x => EncodingFits.ldVxK x
  | .ldDtVx x => EncodingFits.ldDtVx x
  | .ldStVx x => EncodingFits.ldStVx x
  | .addI x => EncodingFits.addI x
  | .ldF x => EncodingFits.ldF x
  | .ldB x => EncodingFits.ldB x
  | .storeRegs x => EncodingFits.storeRegs x
  | .loadRegs x => EncodingFits.loadRegs x

/-- A row accepts the words of its own instruction and no others (R71). -/
theorem accepts_iff_rowNumber {w : Word} {i : Instr} {k : Nat} {r : OpcodeRow} (hd : decode w = .ok i)
    (hr : opcodeTable[k]? = some r) : r.accepts w = true ↔ k = i.rowNumber := by
  constructor
  · intro h
    obtain ⟨j, hj, hk⟩ := decode_of_accepts hr h
    cases hd.symm.trans hj
    exact hk.symm
  · rintro rfl
    obtain ⟨-, hrow⟩ := encodingFits i
    rwa [hr, encode_of_decode hd, Option.map_some, Option.some_inj] at hrow

theorem not_accepts_of_decode_error {w : Word} {e : DecodeReject} (hd : decode w = .error e) {r : OpcodeRow}
    (hr : r ∈ opcodeTable) : r.accepts w = false := by
  rw [← Bool.not_eq_true]
  intro h
  obtain ⟨k, hk⟩ := List.mem_iff_getElem?.mp hr
  obtain ⟨i, hi, -⟩ := decode_of_accepts hk h
  cases hd.symm.trans hi

/-- Settles O3. -/
theorem decodeFollowsOpcodeTable : Obligations.DecodeFollowsOpcodeTable :=
  ⟨fun _ _ hd _ _ hr => accepts_iff_rowNumber hd hr,
    fun _ _ hd => ⟨Machine.decode_error hd, fun _ hr => not_accepts_of_decode_error hd hr⟩, rfl, rfl⟩

/-! ### Illegal words -/

/-- The classes of R68. -/
def IllegalClass (w : Word) : Prop :=
  (opField w = 0x0#4 ∧ w ≠ 0x00E0#16 ∧ w ≠ 0x00EE#16) ∨
  (opField w = 0x5#4 ∧ nField w ≠ 0x0#4) ∨
  (opField w = 0x8#4 ∧ nField w ∈ [0x8#4, 0x9#4, 0xA#4, 0xB#4, 0xC#4, 0xD#4, 0xF#4]) ∨
  (opField w = 0x9#4 ∧ nField w ≠ 0x0#4) ∨
  (opField w = 0xE#4 ∧ nnField w ∉ [0x9E#8, 0xA1#8]) ∨
  (opField w = 0xF#4 ∧
    nnField w ∉ [0x07#8, 0x0A#8, 0x15#8, 0x18#8, 0x1E#8, 0x29#8, 0x33#8, 0x55#8, 0x65#8])

/-- The low nibbles of family 8 are those that R68 does not list. -/
theorem mem_illegalNibbles_iff (n : Nibble) :
    n ∈ [0x8#4, 0x9#4, 0xA#4, 0xB#4, 0xC#4, 0xD#4, 0xF#4] ↔
      n ∉ [0x0#4, 0x1#4, 0x2#4, 0x3#4, 0x4#4, 0x5#4, 0x6#4, 0x7#4, 0xE#4] := by
  revert n
  decide

section
variable {w : Word}

/-! #### The check and the decoder of each family refuse its class -/

theorem familyZeroOk_eq_false_iff :
    familyZeroOk w = false ↔ opField w = 0x0#4 ∧ w ≠ 0x00E0#16 ∧ w ≠ 0x00EE#16 := by
  simp [familyZeroOk, bitsAre, and_family_eq_iff, and_assoc]

theorem familyFiveOk_eq_false_iff : familyFiveOk w = false ↔ opField w = 0x5#4 ∧ nField w ≠ 0x0#4 := by
  simp [familyFiveOk, bitsAre, and_family_eq_iff, and_lowNibble_eq_iff]

theorem familyEightOk_eq_false_iff : familyEightOk w = false ↔
    opField w = 0x8#4 ∧ nField w ∈ [0x8#4, 0x9#4, 0xA#4, 0xB#4, 0xC#4, 0xD#4, 0xF#4] := by
  rw [mem_illegalNibbles_iff]
  simp [familyEightOk, familyEightNibbles, bitsAre, and_family_eq_iff, and_lowNibble_eq_iff]

theorem familyNineOk_eq_false_iff : familyNineOk w = false ↔ opField w = 0x9#4 ∧ nField w ≠ 0x0#4 := by
  simp [familyNineOk, bitsAre, and_family_eq_iff, and_lowNibble_eq_iff]

theorem familyEOk_eq_false_iff :
    familyEOk w = false ↔ opField w = 0xE#4 ∧ nnField w ∉ [0x9E#8, 0xA1#8] := by
  simp [familyEOk, bitsAre, and_family_eq_iff, and_lowByte_eq_iff]

theorem familyFOk_eq_false_iff : familyFOk w = false ↔ opField w = 0xF#4 ∧
    nnField w ∉ [0x07#8, 0x0A#8, 0x15#8, 0x18#8, 0x1E#8, 0x29#8, 0x33#8, 0x55#8, 0x65#8] := by
  simp [familyFOk, familyFBytes, bitsAre, and_family_eq_iff, and_lowByte_eq_iff]

theorem decodeFamily0_illegal_iff :
    decodeFamily0 w = .error (.illegal w) ↔ w ≠ 0x00E0#16 ∧ w ≠ 0x00EE#16 := by
  unfold decodeFamily0
  split
  · simp [*]
  · split <;> simp [*]

theorem decodeFamily8_illegal_iff : decodeFamily8 w = .error (.illegal w) ↔
    nField w ∈ [0x8#4, 0x9#4, 0xA#4, 0xB#4, 0xC#4, 0xD#4, 0xF#4] := by
  rw [mem_illegalNibbles_iff]
  unfold decodeFamily8
  split <;> simp_all

theorem decodeFamilyE_illegal_iff : decodeFamilyE w = .error (.illegal w) ↔ nnField w ∉ [0x9E#8, 0xA1#8] := by
  unfold decodeFamilyE
  split <;> simp_all

theorem decodeFamilyF_illegal_iff : decodeFamilyF w = .error (.illegal w) ↔
    nnField w ∉ [0x07#8, 0x0A#8, 0x15#8, 0x18#8, 0x1E#8, 0x29#8, 0x33#8, 0x55#8, 0x65#8] := by
  unfold decodeFamilyF
  split <;> simp_all

end

/-- A word is well formed where no family's check refuses it. -/
theorem wellFormed_eq_false_iff (w : Word) : wellFormed w = false ↔ IllegalClass w := by
  simp only [wellFormed, Bool.and_eq_false_iff, familyZeroOk_eq_false_iff, familyFiveOk_eq_false_iff,
    familyEightOk_eq_false_iff, familyNineOk_eq_false_iff, familyEOk_eq_false_iff, familyFOk_eq_false_iff,
    or_assoc, IllegalClass]

/-- The family of the word leaves one class of R68, or none. -/
theorem decode_illegal_iff (w : Word) : decode w = .error (.illegal w) ↔ IllegalClass w := by
  unfold decode
  split
  case h_1 hop => rw [decodeFamily0_illegal_iff]; simp [IllegalClass, hop]
  case h_9 hop => rw [decodeFamily8_illegal_iff]; simp [IllegalClass, hop]
  case h_15 hop => rw [decodeFamilyE_illegal_iff]; simp [IllegalClass, hop]
  case h_16 =>
    have hop : opField w = 0xF#4 := eq_familyF _ (by simp_all)
    rw [decodeFamilyF_illegal_iff]
    simp [IllegalClass, hop]
  all_goals next hop => simp [IllegalClass, hop]

/-- Settles O4. -/
theorem illegalWordsAreTheListedClasses : Obligations.IllegalWordsAreTheListedClasses :=
  fun w => ⟨(decode_illegal_iff w).trans (wellFormed_eq_false_iff w).symm, decode_illegal_iff w⟩

end Sys2Proof.Laws

/-! Settles O7, O6 and O8. The Step cycle as one equation for each of its cases, and that every instruction answers a
next state. -/

namespace Sys2Proof.Machine

open Sys2Proof.Safety

/-! ### The Step cycle (R63, R66) -/

section
variable {s : State}

theorem step_of_not_running (hs : s.status ≠ .running) : step s = .next s := by
  cases hk : s.status with
  | running => exact absurd hk hs
  | waitKey x => simp [step, hk]
  | faulted f p o => simp [step, hk]

variable (hs : s.status = .running)
include hs

theorem step_of_fetch_none (hf : s.fetch = none) : step s = .next (s.raise (.memoryBoundsError s.pc)) := by
  simp [step, hs, hf]

theorem step_of_illegal {w : Word} {e : DecodeReject} (hf : s.fetch = some w) (hd : decode w = .error e) :
    step s = .next ((s.latch w).raise (.decodeError w)) := by
  simp [step, hs, hf, hd]

theorem step_of_decoded {w : Word} {i : Instr} (hf : s.fetch = some w) (hd : decode w = .ok i) :
    step s = exec i (s.latch w) := by
  simp [step, hs, hf, hd]

end

theorem State.fetch_eq_none {s : State} (hpc : s.pc.toNat + 1 > 0xFFF) : s.fetch = none := by
  rw [State.fetch_eq, if_pos hpc]

theorem State.fetch_eq_some {s : State} (hpc : s.pc.toNat + 1 ≤ 0xFFF) :
    s.fetch = some (wordOfBytes (s.readByte s.pc.toNat) (s.readByte (s.pc.toNat + 1))) := by
  rw [State.fetch_eq, if_neg (Nat.not_lt.mpr hpc)]

theorem State.pc_le_of_fetch {s : State} {w : Word} (hf : s.fetch = some w) : s.pc.toNat ≤ lastFetchPc := by
  by_contra hpc
  have hnone : s.fetch = none := State.fetch_eq_none (by simp only [lastFetchPc] at hpc; omega)
  cases hnone.symm.trans hf

theorem faultsWith_raise (s : State) (f : Fault) : FaultsWith f s (s.raise f) :=
  ⟨rfl, onlyChanges_raise s f⟩

/-- Settles O7: one equation of `step` for each case. -/
theorem stepCycleByStatusAndFetch : Obligations.StepCycleByStatusAndFetch := by
  intro s
  refine ⟨step_of_not_running, fun hs hpc => ?_, fun hs hpc => ?_⟩
  · exact ⟨_, step_of_fetch_none hs (State.fetch_eq_none hpc), faultsWith_raise s _⟩
  · have hf := State.fetch_eq_some hpc
    refine ⟨_, rfl, fun e hd => ?_, fun i hd => step_of_decoded hs hf hd⟩
    exact ⟨_, step_of_illegal hs hf hd, faultsWith_raise (s.latch _) _⟩

/-- Settles O6. -/
theorem stepRunsTheDecodedInstruction : Obligations.StepRunsTheDecodedInstruction := by
  intro s i hs hpc hd
  obtain ⟨hwf, -⟩ := Laws.encodingFits i
  exact ⟨hwf, step_of_decoded hs (State.fetch_eq_some hpc) hd⟩

/-! ### Every instruction answers a next state -/

theorem exec_next (i : Instr) (s : State) : ∃ t, exec i s = .next t := by
  cases i with
  | ret | call | addI | ldB | storeRegs | loadRegs | skp | sknp =>
    simp only [exec, execRet, execCall, execAddI, execLdB, execStoreRegs, execLoadRegs, execSkp, execSknp]
    split <;> exact ⟨_, rfl⟩
  | drw x y n =>
    simp only [exec, execDrw]
    split
    · exact ⟨_, rfl⟩
    · split <;> exact ⟨_, rfl⟩
  | _ => exact ⟨_, rfl⟩

/-- Settles O8: each case of `step_cases` is a next state, the last because `exec` always answers one. -/
theorem stepAlwaysAnswersNextState : Obligations.StepAlwaysAnswersNextState := by
  intro s
  obtain ⟨-, hr⟩ | ⟨-, -, hr⟩ | ⟨w, -, -, -, hr⟩ | ⟨w, i, -, -, -, hr⟩ := step_cases (s := s) rfl
  · exact ⟨_, hr⟩
  · exact ⟨_, hr⟩
  · exact ⟨_, hr⟩
  · rw [hr]; exact exec_next i (s.latch w)

end Sys2Proof.Machine

/-! Settles O11 and O13. The next pc, the status, the memory and the stack after every instruction, and from them the
invariant. -/

namespace Sys2Proof

open Sys2Proof.Machine

/-- pc after an instruction that does not fault (R67), in the 16 bits of pc. -/
def Instr.nextPc (s : State) : Instr → Word
  | .jp nnn | .call nnn => addrOperand nnn
  | .jpV0 nnn => offsetAddr nnn (s.v 0#4)
  | .ret => s.stack[s.sp.val - 1]'(by have := s.sp.isLt; omega) + 2#16
  | .seImm x nn => s.pc + if s.v x = nn then 4#16 else 2#16
  | .sneImm x nn => s.pc + if s.v x = nn then 2#16 else 4#16
  | .seReg x y => s.pc + if s.v x = s.v y then 4#16 else 2#16
  | .sneReg x y => s.pc + if s.v x = s.v y then 2#16 else 4#16
  | .skp x => s.pc + if s.keys[(s.v x).toNat]? = some true then 4#16 else 2#16
  | .sknp x => s.pc + if s.keys[(s.v x).toNat]? = some true then 2#16 else 4#16
  | .ldVxK _ => s.pc
  | _ => s.pc + 2#16

end Sys2Proof

namespace Sys2Proof.Machine

open Sys2Proof.Safety

/-! ### The next pc -/

theorem State.keyAt_eq_getElem? (s : State) (k : Byte) : s.keyAt k = s.keys[k.toNat]? := by
  unfold State.keyAt
  split
  · next h => rw [Vector.getElem?_eq_getElem h]
  · next h => rw [Vector.getElem?_eq_none (Nat.not_lt.mp h)]

theorem exec_pc {i : Instr} {s t : State} (h : exec i s = .next t) :
    (∃ f, t = s.raise f) ∨ t.pc = i.nextPc s := by
  cases i with
  | ret =>
    simp only [exec, execRet] at h
    obtain ⟨-, hp⟩ | ⟨hsp, hp⟩ := s.pop_cases <;> rw [hp] at h <;> cases h
    · exact .inl ⟨_, rfl⟩
    · exact .inr rfl
  | ldB x | storeRegs x =>
    simp only [exec, execLdB, execStoreRegs] at h
    split at h <;> cases h
    · exact .inl ⟨_, rfl⟩
    · next hw => right; rw [State.memWrite_eq_update hw]; rfl
  | call | loadRegs | addI =>
    simp only [exec, execCall, execLoadRegs, execAddI] at h
    split at h <;> cases h
    · exact .inl ⟨_, rfl⟩
    · exact .inr rfl
  | drw x y n =>
    simp only [exec, execDrw] at h
    split at h
    · cases h; exact .inl ⟨_, rfl⟩
    · split at h <;> cases h
      · exact .inl ⟨_, rfl⟩
      · exact .inr rfl
  | skp x | sknp x =>
    simp only [exec, execSkp, execSknp, State.keyAt_eq_getElem?] at h
    split at h <;> cases h
    · exact .inl ⟨_, rfl⟩
    · next pressed hk => right; cases pressed <;> simp [Instr.nextPc, State.skipIf_eq, hk]
  | seImm | sneImm | seReg | sneReg => cases h; right; simp [Instr.nextPc, State.skipIf_eq]
  | addReg | subReg | shrReg | subnReg | shlReg =>
    cases h; right
    rw [State.writeResultAndFlag_eq]; rfl
  | _ => cases h; exact .inr rfl

/-- The status after an instruction that runs: a fault, a wait that writes nothing else, or `Running`. -/
theorem exec_status_cases {i : Instr} {s t : State} (hs : s.status = .running) (h : exec i s = .next t) :
    (∃ f, t = s.raise f) ∨ (∃ x, i = .ldVxK x ∧ t = { s with status := .waitKey x }) ∨ t.status = .running := by
  obtain hf | ⟨hparts, -⟩ := exec_frame h
  · exact .inl hf
  · by_cases hw : Part.status ∈ i.writtenParts
    · right; left
      cases i <;> simp [Instr.writtenParts] at hw
      cases h
      exact ⟨_, rfl, rfl⟩
    · exact .inr (.inr ((hparts .status hw).trans hs))

/-- Where an instruction that runs ends in `Faulted`, it has raised the fault and done nothing else. -/
theorem eq_raise_of_isFaulted {i : Instr} {s t : State} (hs : s.status = .running) (h : exec i s = .next t)
    (ht : t.isFaulted = true) : ∃ f, t = s.raise f := by
  obtain hf | ⟨x, -, rfl⟩ | hrun := exec_status_cases hs h
  · exact hf
  · cases ht
  · simp [State.isFaulted, hrun] at ht

/-! ### The next pc as an exact number -/

@[simp] theorem addrOperand_toNat (nnn : Addr12) : (addrOperand nnn).toNat = nnn.toNat := by
  simp [addrOperand]; omega

@[simp] theorem offsetAddr_toNat (nnn : Addr12) (v0 : Byte) : (offsetAddr nnn v0).toNat = nnn.toNat + v0.toNat := by
  simp [offsetAddr]; omega

/-- No sum of R67 wraps at an address that can be fetched from. -/
theorem toNat_add_of_le_lastFetchPc {a b : Word} (ha : a.toNat ≤ lastFetchPc) (hb : b.toNat ≤ 4) :
    (a + b).toNat = a.toNat + b.toNat := by
  simp only [lastFetchPc] at ha
  rw [BitVec.toNat_add]
  omega

/-- The two moves of a conditional skip, as exact numbers. -/
theorem toNat_add_ite {a : Word} (ha : a.toNat ≤ lastFetchPc) (c : Prop) [Decidable c] {m n : Word}
    (hm : m.toNat ≤ 4) (hn : n.toNat ≤ 4) :
    (a + if c then m else n).toNat = a.toNat + if c then m.toNat else n.toNat := by
  split
  · exact toNat_add_of_le_lastFetchPc ha hm
  · exact toNat_add_of_le_lastFetchPc ha hn

/-- Settles O11: `exec_pc`, and then that no sum of the table wraps. -/
theorem nextPcOfEveryInstruction : Obligations.NextPcOfEveryInstruction := by
  intro s t w i hinv hs hf hd h
  rw [step_of_decoded hs hf hd] at h
  have hpc := State.pc_le_of_fetch hf
  split
  · next ht =>
    obtain ⟨f, rfl⟩ := eq_raise_of_isFaulted (s := s.latch w) hs h ht
    rfl
  · next ht =>
    obtain ⟨f, rfl⟩ | hnext := exec_pc h
    · exact absurd rfl ht
    cases i with
    | jp nnn | call nnn => rw [hnext]; exact addrOperand_toNat nnn
    | jpV0 nnn => rw [hnext]; exact offsetAddr_toNat nnn (s.v 0#4)
    | ret =>
      have hsp : s.sp.val - 1 < 16 := by omega
      refine ⟨s.stack[s.sp.val - 1], Vector.getElem?_eq_getElem hsp, ?_⟩
      rw [hnext]
      exact toNat_add_of_le_lastFetchPc (hinv.stackBound ⟨_, hsp⟩) (by decide)
    | seImm | sneImm | seReg | sneReg | skp | sknp =>
      rw [hnext]
      exact toNat_add_ite hpc _ (by decide) (by decide)
    | ldVxK => exact hnext
    | _ => rw [hnext]; exact toNat_add_of_le_lastFetchPc hpc (by decide)

/-! ### What an instruction can do to the memory and to the stack -/

/-- The memory after an instruction is the one before, or that of a write in bounds at I. -/
theorem exec_mem {i : Instr} {s t : State} (h : exec i s = .next t) :
    t.mem = s.mem ∨ ∃ bs u, s.memWrite s.index bs = some u ∧ t.mem = u.mem := by
  cases i with
  | ldB x | storeRegs x =>
    simp only [exec, execLdB, execStoreRegs] at h
    split at h <;> cases h
    · exact .inl rfl
    · next hw => exact .inr ⟨_, _, hw, rfl⟩
  | ret =>
    simp only [exec, execRet] at h
    obtain ⟨-, hp⟩ | ⟨hsp, hp⟩ := s.pop_cases <;> rw [hp] at h <;> cases h <;> exact .inl rfl
  | call nnn =>
    simp only [exec, execCall] at h
    obtain ⟨-, hp⟩ | ⟨hsp, hp⟩ := s.push_cases s.pc <;> rw [hp] at h <;> cases h <;> exact .inl rfl
  | loadRegs | addI => simp only [exec, execLoadRegs, execAddI] at h; split at h <;> cases h <;> exact .inl rfl
  | drw x y n =>
    simp only [exec, execDrw] at h
    split at h
    · cases h; exact .inl rfl
    · split at h <;> cases h <;> exact .inl rfl
  | skp x | sknp x =>
    simp only [exec, execSkp, execSknp] at h
    split at h <;> cases h
    · exact .inl rfl
    · left; rw [State.skipIf_eq]
  | seImm | sneImm | seReg | sneReg => cases h; left; rw [State.skipIf_eq]
  | addReg | subReg | shrReg | subnReg | shlReg => cases h; left; rw [State.writeResultAndFlag_eq]; rfl
  | _ => cases h; exact .inl rfl

theorem exec_memoryWf {i : Instr} {s t : State} (hwf : s.MemoryWf) (h : exec i s = .next t) : t.MemoryWf := by
  rw [State.MemoryWf, exec_params h]
  obtain hmem | ⟨bs, u, hw, hmem⟩ := exec_mem h
  · rw [hmem]; exact hwf
  · rw [hmem, ← State.memWrite_params hw]; exact State.memWrite_memoryWf hwf hw

/-- The only stack entry that an instruction writes is its own address (R78). -/
theorem exec_stack {i : Instr} {s t : State} (h : exec i s = .next t) :
    t.stack = s.stack ∨ ∃ j, ∃ hj : j < 16, t.stack = s.stack.set j s.pc hj := by
  obtain hsame | hw := exec_same_or_written h .stack
  · exact .inl hsame
  · obtain ⟨-, -, -, -, hcall, -⟩ := writers_of_part i
    obtain ⟨nnn, rfl⟩ := hcall hw
    simp only [exec, execCall] at h
    obtain ⟨-, hp⟩ | ⟨hsp, hp⟩ := s.push_cases s.pc <;> rw [hp] at h <;> cases h
    · exact .inl rfl
    · exact .inr ⟨_, hsp, rfl⟩

/-! ### The invariant -/

/-- A fault keeps the invariant: its record names pc and latch as they are (R117). -/
theorem raise_invariant {s : State} (hinv : StateInvariant s) (f : Fault) : StateInvariant (s.raise f) where
  memory := hinv.memory
  pcBound := hinv.pcBound
  stackBound := hinv.stackBound
  waitPc _ h := nomatch h
  faultRecord _ _ _ h := by cases h; exact ⟨rfl, rfl⟩

/-- In `Running` the latch is in no clause of the invariant. -/
theorem latch_invariant {s : State} (hinv : StateInvariant s) (hs : s.status = .running) (w : Word) :
    StateInvariant (s.latch w) where
  memory := hinv.memory
  pcBound := hinv.pcBound
  stackBound := hinv.stackBound
  waitPc _ h := nomatch hs.symm.trans h
  faultRecord _ _ _ h := nomatch hs.symm.trans h

theorem toNat_add_le_highestPc {a b : Word} (ha : a.toNat ≤ lastFetchPc) (hb : b.toNat ≤ 4) :
    (a + b).toNat ≤ highestPc := by
  rw [toNat_add_of_le_lastFetchPc ha hb]
  exact Nat.le_trans (Nat.add_le_add ha hb) (by decide)

/-- No instruction fetched at 0xFFE or below carries pc past nnn + V0 (R67). -/
theorem nextPc_le_highestPc {s : State} (hinv : StateInvariant s) (hpc : s.pc.toNat ≤ lastFetchPc) (i : Instr) :
    (i.nextPc s).toNat ≤ highestPc := by
  cases i with
  | jp nnn | call nnn =>
    rw [Instr.nextPc, addrOperand_toNat]
    exact Nat.le_trans (Nat.le_of_lt nnn.isLt) (by decide)
  | jpV0 nnn =>
    rw [Instr.nextPc, offsetAddr_toNat]
    exact Nat.add_le_add (Nat.le_of_lt_succ nnn.isLt) (Nat.le_of_lt_succ (s.v 0#4).isLt)
  | ret => exact toNat_add_le_highestPc (hinv.stackBound ⟨s.sp.val - 1, by omega⟩) (by decide)
  | seImm | sneImm | seReg | sneReg | skp | sknp =>
    exact toNat_add_le_highestPc hpc (by split <;> decide)
  | ldVxK => exact hinv.pcBound
  | _ => exact toNat_add_le_highestPc hpc (by decide)

theorem exec_invariant {i : Instr} {s t : State} (hinv : StateInvariant s) (hs : s.status = .running)
    (hpc : s.pc.toNat ≤ lastFetchPc) (h : exec i s = .next t) : StateInvariant t := by
  obtain ⟨f, rfl⟩ | hnext := exec_pc h
  · exact raise_invariant hinv f
  refine ⟨exec_memoryWf hinv.memory h, ?_, fun j => ?_, fun x hx => ?_, fun f p o hf => ?_⟩
  · rw [hnext]; exact nextPc_le_highestPc hinv hpc i
  · obtain hstack | ⟨k, hk, hstack⟩ := exec_stack h
    · rw [hstack]; exact hinv.stackBound j
    · simp only [hstack, Fin.getElem_fin, Vector.getElem_set]
      split
      · exact hpc
      · exact hinv.stackBound j
  · obtain ⟨f, rfl⟩ | ⟨y, -, rfl⟩ | hrun := exec_status_cases hs h
    · cases hx
    · exact hpc
    · cases hrun.symm.trans hx
  · obtain ⟨f, rfl⟩ := eq_raise_of_isFaulted hs h ((State.isFaulted_iff t).mpr ⟨f, p, o, hf⟩)
    exact (raise_invariant hinv f).faultRecord _ _ _ hf

/-- Settles O13, by cases over what a Step can do. -/
theorem stepKeepsInvariant : Obligations.StepKeepsInvariant := by
  intro s t hinv h
  obtain ⟨-, hr⟩ | ⟨-, -, hr⟩ | ⟨w, hs, -, -, hr⟩ | ⟨w, i, hs, hf, -, hr⟩ := step_cases h
  · cases hr; exact hinv
  · cases hr; exact raise_invariant hinv _
  · cases hr; exact raise_invariant (latch_invariant hinv hs w) _
  · exact exec_invariant (latch_invariant hinv hs w) hs (State.pc_le_of_fetch hf) hr.symm

end Sys2Proof.Machine

/-! Settles O19, O20, O21, O22, O23 and O24. Where calls, returns, jumps and the conditional skips go, and that they
write nothing else. -/

namespace Sys2Proof.Machine

open Sys2Proof.Safety

/-! ### The fetch after a transfer, and the frames -/

theorem faultsWhenFetchedPastEnd (s : State) : FaultsWhenFetchedPastEnd s :=
  fun hs hpc => ⟨_, step_of_fetch_none hs (State.fetch_eq_none hpc), faultsWith_raise s _⟩

theorem onlyChanges_jumpTo (s : State) (a : Word) : OnlyChanges [.pc] noRegs s (s.jumpTo a) := by
  simp [onlyChanges_iff]

theorem onlyChanges_skipIf (s : State) (c : Bool) : OnlyChanges [.pc] noRegs s (s.skipIf c) := by
  rw [State.skipIf_eq]
  exact onlyChanges_jumpTo s _

/-! ### Call and return (R76, R78) -/

/-- A return pops the top entry and goes past it. -/
theorem exec_ret_of_top {s : State} {n : Nat} {ra : Word} (hsp : s.sp.val = n + 1) (hra : s.stack[n]? = some ra) :
    exec .ret s = .next { s with sp := ⟨n, by omega⟩, pc := ra + 2#16 } := by
  obtain ⟨hn, rfl⟩ := Vector.getElem?_eq_some_iff.mp hra
  simp [exec, execRet, State.pop, State.jumpTo, hsp]

theorem exec_ret_of_empty {s : State} (hsp : s.sp.val = 0) : exec .ret s = .next (s.raise .stackUnderflow) := by
  simp [exec, execRet, State.pop, hsp]

/-- A call pushes its own address. -/
theorem exec_call_of_room {s : State} (nnn : Addr12) (hsp : s.sp.val < 16) :
    exec (.call nnn) s = .next { s with
      stack := s.stack.set s.sp.val s.pc, sp := ⟨s.sp.val + 1, by omega⟩, pc := addrOperand nnn } := by
  simp [exec, execCall, State.push, State.jumpTo, hsp]

theorem exec_call_of_full {s : State} (nnn : Addr12) (hsp : s.sp.val = 16) :
    exec (.call nnn) s = .next (s.raise .stackOverflow) := by
  simp [exec, execCall, State.push, hsp]

/-- Settles O19. Under the invariant the popped entry is a fetched address, so the sum does not wrap. -/
theorem returnGoesPastTheCallSite : Obligations.ReturnGoesPastTheCallSite := by
  refine ⟨rfl, fun s => ⟨fun h0 => ⟨_, exec_ret_of_empty h0, faultsWith_raise s _⟩, fun hpos => ?_⟩⟩
  have hlt : s.sp.val - 1 < 16 := by omega
  have htop : s.stack[s.sp.val - 1]? = some s.stack[s.sp.val - 1] := Vector.getElem?_eq_getElem hlt
  refine ⟨_, exec_ret_of_top (by omega) htop, rfl, ⟨_, htop, rfl, fun hinv => ?_⟩, faultsWhenFetchedPastEnd _, ?_⟩
  · have hra : s.stack[s.sp.val - 1].toNat ≤ lastFetchPc := hinv.stackBound ⟨_, hlt⟩
    have hsum := toNat_add_of_le_lastFetchPc hra (b := 2#16) (by decide)
    exact ⟨hsum, hsum.trans_le (Nat.add_le_add_right hra 2)⟩
  · simp [onlyChanges_iff]

/-- Settles O20. -/
theorem callPushesItsOwnAddress : Obligations.CallPushesItsOwnAddress := by
  refine fun nnn => ⟨Laws.decode_encode (.call nnn), fun s => ⟨fun hfull => ?_, fun hsp => ?_⟩⟩
  · exact ⟨_, exec_call_of_full nnn hfull, faultsWith_raise s _⟩
  · refine ⟨_, exec_call_of_room nnn hsp, ?_, fun j hj => ?_, rfl, addrOperand_toNat nnn, ?_⟩
    · exact Vector.getElem?_set_self hsp
    · exact Vector.getElem?_set_ne hsp hj.symm
    · simp [onlyChanges_iff]

/-- Settles O21: the entry that the return pops is the one that the call pushed. -/
theorem callThenReturnComesBack : Obligations.CallThenReturnComesBack := by
  intro nnn s hsp
  refine ⟨_, exec_call_of_room nnn hsp, fun u hstack hu => ?_⟩
  have htop : u.stack[s.sp.val]? = some s.pc := by rw [hstack]; exact Vector.getElem?_set_self hsp
  refine ⟨_, exec_ret_of_top (congrArg Fin.val hu) htop, rfl, rfl, fun j hj => ?_⟩
  rw [hstack]
  exact Vector.getElem?_set_ne hsp (Nat.ne_of_gt hj)

/-! ### Jumps (R77, R83) -/

/-- Settles O22. -/
theorem jumpsGoToTheirTarget : Obligations.JumpsGoToTheirTarget := by
  refine fun nnn => ⟨Laws.decode_encode (.jp nnn), Laws.decode_encode (.jpV0 nnn), fun s => ⟨?_, ?_⟩⟩
  · exact ⟨_, rfl, addrOperand_toNat nnn, onlyChanges_jumpTo s _, faultsWhenFetchedPastEnd _⟩
  · exact ⟨_, rfl, offsetAddr_toNat nnn (s.v 0#4), onlyChanges_jumpTo s _, faultsWhenFetchedPastEnd _⟩

/-! ### Conditional skips (R79 to R82) -/

theorem State.skipIf_pc_of_true {s : State} {c : Bool} (h : c = true) : (s.skipIf c).pc = s.pc + 4#16 := by
  rw [State.skipIf_eq, if_pos h]

theorem State.skipIf_pc_of_false {s : State} {c : Bool} (h : c = false) : (s.skipIf c).pc = s.pc + 2#16 := by
  rw [h]; rfl

/-- Settles O23. -/
theorem immediateSkipsMovePcByFourOrTwo : Obligations.ImmediateSkipsMovePcByFourOrTwo := by
  refine fun x nn => ⟨Laws.decode_encode (.seImm x nn), Laws.decode_encode (.sneImm x nn), fun s => ⟨?_, ?_⟩⟩
  · exact ⟨_, rfl, fun heq => State.skipIf_pc_of_true (beq_iff_eq.mpr heq),
      fun hne => State.skipIf_pc_of_false (beq_eq_false_iff_ne.mpr hne), faultsWhenFetchedPastEnd _,
      onlyChanges_skipIf s _⟩
  · exact ⟨_, rfl, fun hne => State.skipIf_pc_of_true (bne_iff_ne.mpr hne),
      fun heq => State.skipIf_pc_of_false (bne_eq_false_iff_eq.mpr heq), faultsWhenFetchedPastEnd _,
      onlyChanges_skipIf s _⟩

/-- The illegal words of families 5 and 9 (R68). -/
theorem decode_formatXYN_illegal {op n : Nibble} (x y : RegIx) (hop : op = 0x5#4 ∨ op = 0x9#4) (hn : n ≠ 0x0#4) :
    decode (formatXYN op x y n) = .error (.illegal (formatXYN op x y n)) := by
  obtain rfl | rfl := hop <;> simp [Laws.decode_illegal_iff, Laws.IllegalClass, hn]

/-- Settles O24. -/
theorem registerSkipsMovePcByFourOrTwo : Obligations.RegisterSkipsMovePcByFourOrTwo := by
  refine fun x y => ⟨Laws.decode_encode (.seReg x y), Laws.decode_encode (.sneReg x y), fun n hn => ⟨?_, ?_⟩,
    fun s => ⟨?_, ?_⟩⟩
  · exact decode_formatXYN_illegal x y (.inl rfl) hn
  · exact decode_formatXYN_illegal x y (.inr rfl) hn
  · exact ⟨_, rfl, fun heq => State.skipIf_pc_of_true (beq_iff_eq.mpr heq),
      fun hne => State.skipIf_pc_of_false (beq_eq_false_iff_ne.mpr hne), onlyChanges_skipIf s _⟩
  · exact ⟨_, rfl, fun hne => State.skipIf_pc_of_true (bne_iff_ne.mpr hne),
      fun heq => State.skipIf_pc_of_false (bne_eq_false_iff_eq.mpr heq), onlyChanges_skipIf s _⟩

end Sys2Proof.Machine

/-! Settles O25, O26, O27, O28, O29, O30 and O31. The registers that the instructions of spec/41_alu.md write, as exact
numbers or bit by bit, and that they write nothing else. -/

namespace Sys2Proof.Machine

open Sys2Proof.Safety

/-! ### The frames -/

theorem onlyChanges_setV_next (s : State) (x : RegIx) (b : Byte) : OnlyChanges [.pc] (· = x) s (s.setV x b).next := by
  simp +contextual [onlyChanges_iff, State.v_setV_other]

theorem onlyChanges_writeResultAndFlag_next (s : State) (x y : RegIx) (result flag : Byte → Byte → Byte) :
    OnlyChanges [.pc] (fun r => r = x ∨ r = vF) s (s.writeResultAndFlag x y result flag).next := by
  rw [onlyChanges_iff, State.writeResultAndFlag_eq]
  simp +contextual [State.v_writeResultAndFlag_other]

/-! ### One register written, and no flag (R86 to R91, R97) -/

/-- An instruction that writes one register and goes on. -/
theorem completes_setV_next {i : Instr} {s : State} {x : RegIx} {b : Byte}
    (hexec : exec i s = .next (s.setV x b).next) :
    Completes i s fun t => t.v x = b ∧ t.pc = s.pc + 2#16 ∧ OnlyChanges [.pc] (· = x) s t :=
  ⟨_, hexec, s.v_setV_same x b, rfl, onlyChanges_setV_next s x b⟩

/-- Settles O25. -/
theorem immediateLoadAndAdd : Obligations.ImmediateLoadAndAdd := by
  refine fun x nn => ⟨Laws.decode_encode (.ldImm x nn), Laws.decode_encode (.addImm x nn), fun s => ⟨?_, ?_⟩⟩
  · exact completes_setV_next rfl
  · obtain ⟨t, ht, hv, hrest⟩ := completes_setV_next (i := .addImm x nn) (s := s) rfl
    exact ⟨t, ht, hv ▸ BitVec.toNat_add (s.v x) nn, hrest⟩

/-- Settles O26: the register written is the bit operation of the two old values. -/
theorem registerCopyAndLogic : Obligations.RegisterCopyAndLogic := by
  refine fun x y => ⟨Laws.decode_encode (.ldReg x y), Laws.decode_encode (.orReg x y),
    Laws.decode_encode (.andReg x y), Laws.decode_encode (.xorReg x y), fun s => ⟨?_, ?_, ?_, ?_⟩⟩
  · exact completes_setV_next rfl
  · obtain ⟨t, ht, hv, hrest⟩ := completes_setV_next (i := .orReg x y) (s := s) rfl
    exact ⟨t, ht, fun k => hv ▸ BitVec.getLsbD_or, hrest⟩
  · obtain ⟨t, ht, hv, hrest⟩ := completes_setV_next (i := .andReg x y) (s := s) rfl
    exact ⟨t, ht, fun k => hv ▸ BitVec.getLsbD_and, hrest⟩
  · obtain ⟨t, ht, hv, hrest⟩ := completes_setV_next (i := .xorReg x y) (s := s) rfl
    exact ⟨t, ht, fun k => hv ▸ BitVec.getLsbD_xor, hrest⟩

theorem getLsbD_and_of_mask_false {b nn : Byte} {k : Nat} (h : nn.getLsbD k = false) :
    (b &&& nn).getLsbD k = false := by
  rw [BitVec.getLsbD_and, h, Bool.and_false]

/-- Settles O31: the register reads back the masked byte of this draw. -/
theorem randomByteIsMaskedByImmediate : Obligations.RandomByteIsMaskedByImmediate := by
  refine fun x nn => ⟨Laws.decode_encode (.rnd x nn), fun s => ?_⟩
  have hv := s.v_setV_same x (Config.randomByte s.draws &&& nn)
  refine ⟨_, rfl, hv, rfl, fun k hk => ?_, rfl, ?_⟩
  · exact (congrArg (·.getLsbD k) hv).trans (getLsbD_and_of_mask_false hk)
  · simp +contextual [onlyChanges_iff, State.v_setV_other]

/-! ### Flags and results as numbers -/

section
variable (a b : Byte)

theorem flagByte_toNat (c : Bool) : (flagByte c).toNat = if c then 1 else 0 := by
  cases c <;> rfl

theorem carryFlag_toNat : (carryFlag a b).toNat = if a.toNat + b.toNat > 255 then 1 else 0 := by
  simp [carryFlag, flagByte_toNat]

theorem notBorrowFlag_toNat : (notBorrowFlag a b).toNat = if b.toNat > a.toNat then 0 else 1 := by
  simp only [notBorrowFlag, flagByte_toNat, Bool.not_eq_true', decide_eq_false_iff_not, ite_not]

/-- The flag of a bit is the bit as a number. -/
theorem flagByte_testBit_toNat (n k : Nat) : (flagByte (n.testBit k)).toNat = n / 2 ^ k % 2 := by
  rw [flagByte_toNat, Nat.testBit_eq_decide_div_mod_eq]
  simp only [decide_eq_true_eq]
  split <;> omega

theorem lowBitFlag_toNat : (lowBitFlag a).toNat = a.toNat % 2 := by
  rw [lowBitFlag, BitVec.getLsbD, flagByte_testBit_toNat, Nat.pow_zero, Nat.div_one]

/-- Bit 7 is the top one, so nothing stands above it. -/
theorem highBitFlag_toNat : (highBitFlag a).toNat = a.toNat / 128 := by
  rw [highBitFlag, BitVec.getLsbD, flagByte_testBit_toNat]
  omega

theorem sub_toNat : (a - b).toNat = (a.toNat + 256 - b.toNat) % 256 := by
  bv_omega

theorem shiftRight_one_toNat : (a >>> 1).toNat = a.toNat / 2 :=
  BitVec.toNat_ushiftRight a 1

theorem shiftLeft_one_toNat : (a <<< 1).toNat = a.toNat * 2 % 256 := by
  rw [BitVec.toNat_shiftLeft, Nat.shiftLeft_eq]

end

/-! ### A result and a flag written (R85, R92 to R96) -/

/-- `writeResultAndFlag` meets R85 for the numbers that its functions of bytes compute. -/
theorem writesResultAndFlag_of_toNat {i : Instr} {x y : RegIx} {result flag : Byte → Byte → Byte}
    {r f : Nat → Nat → Nat} {s : State} (hexec : exec i s = .next (s.writeResultAndFlag x y result flag).next)
    (hr : ∀ a b, (result a b).toNat = r a.toNat b.toNat) (hf : ∀ a b, (flag a b).toNat = f a.toNat b.toNat) :
    WritesResultAndFlag i x y r f s := by
  refine ⟨_, hexec, fun ho => ⟨?_, fun hx => ?_⟩, fun ho => ⟨?_, fun hx => ?_⟩, ?_,
    onlyChanges_writeResultAndFlag_next s x y result flag⟩
  · simp only [State.next_v, State.v_writeResultAndFlag_flagFirst ho, if_pos, hr, hf, apply_ite BitVec.toNat,
      eq_comm (a := vF)]
  · rw [State.next_v, State.v_writeResultAndFlag_flagFirst ho, if_neg hx, if_pos rfl, hf]
  · rw [State.next_v, State.v_writeResultAndFlag_flagLast ho, if_pos rfl, hf]
  · rw [State.next_v, State.v_writeResultAndFlag_flagLast ho, if_neg hx.symm, if_pos rfl, hr]
  · rw [State.writeResultAndFlag_eq]; rfl

/-- Settles O27. -/
theorem addWritesSumAndCarry : Obligations.AddWritesSumAndCarry := by
  refine fun x y => ⟨Laws.decode_encode (.addReg x y), fun s => ?_⟩
  exact writesResultAndFlag_of_toNat rfl BitVec.toNat_add carryFlag_toNat

/-- Settles O28. 8xy7 is 8xy5 with the operands exchanged. -/
theorem subtractionsWriteDifferenceAndNotBorrow : Obligations.SubtractionsWriteDifferenceAndNotBorrow := by
  refine fun x y => ⟨Laws.decode_encode (.subReg x y), Laws.decode_encode (.subnReg x y), fun s => ⟨?_, ?_⟩⟩
  · exact writesResultAndFlag_of_toNat rfl sub_toNat notBorrowFlag_toNat
  · exact writesResultAndFlag_of_toNat rfl (fun a b => sub_toNat b a) (fun a b => notBorrowFlag_toNat b a)

/-- Settles O29. -/
theorem shiftsWriteResultAndBitShiftedOut : Obligations.ShiftsWriteResultAndBitShiftedOut := by
  refine fun x y => ⟨Laws.decode_encode (.shrReg x y), Laws.decode_encode (.shlReg x y), fun s => ⟨?_, ?_⟩⟩
  · exact writesResultAndFlag_of_toNat rfl (fun a _ => shiftRight_one_toNat a) (fun a _ => lowBitFlag_toNat a)
  · exact writesResultAndFlag_of_toNat rfl (fun a _ => shiftLeft_one_toNat a) (fun a _ => highBitFlag_toNat a)

/-! ### The two write orders (R85) -/

theorem State.setV_comm (s : State) {i j : RegIx} (b c : Byte) (h : i ≠ j) :
    (s.setV i b).setV j c = (s.setV j c).setV i b := by
  have hij : i.toNat ≠ j.toNat := fun he => h (BitVec.eq_of_toNat_eq he)
  simp only [State.setV, Vector.set_comm b c hij]

/-- Where neither operand is VF, the flag write changes neither operand nor the result, so its place does not matter. -/
theorem State.writeResultAndFlag_of_ne_vF {s : State} {x y : RegIx} (hx : x ≠ vF) (hy : y ≠ vF)
    (result flag : Byte → Byte → Byte) :
    s.writeResultAndFlag x y result flag =
      (s.setV x (result (s.v x) (s.v y))).setV vF (flag (s.v x) (s.v y)) := by
  unfold State.writeResultAndFlag
  cases s.params.vfWriteOrder with
  | flagFirst => simp only [State.v_setV_other _ _ hx, State.v_setV_other _ _ hy, State.setV_comm s _ _ hx.symm]
  | flagLast => rfl

/-- The five instructions with a flag are one operation, with a result and a flag of their own. -/
theorem exec_eq_writeResultAndFlag {x y : RegIx} {i : Instr}
    (hi : i ∈ [.addReg x y, .subReg x y, .shrReg x y, .subnReg x y, .shlReg x y]) :
    ∃ result flag : Byte → Byte → Byte, ∀ s, exec i s = .next (s.writeResultAndFlag x y result flag).next := by
  simp only [List.mem_cons, List.not_mem_nil, or_false] at hi
  obtain rfl | rfl | rfl | rfl | rfl := hi <;> exact ⟨_, _, fun _ => rfl⟩

/-- Settles O30. -/
theorem writeOrdersAgreeAwayFromVF : Obligations.WriteOrdersAgreeAwayFromVF := by
  intro x y i s hx hy hi
  obtain ⟨result, flag, hexec⟩ := exec_eq_writeResultAndFlag hi
  refine ⟨((s.setV x (result (s.v x) (s.v y))).setV vF (flag (s.v x) (s.v y))).next, fun order => ?_⟩
  rw [hexec, State.writeResultAndFlag_of_ne_vF hx hy]
  rfl

end Sys2Proof.Machine

/-! Settles O32, O33, O34, O35, O36 and O37. What the instructions of spec/42_index_memory.md do with I, the memory and
the registers: one equation of `exec` for each side of the bound, and then the reads after it. -/

namespace Sys2Proof.Machine

open Sys2Proof.Safety

/-! ### I as an exact number (R99 to R101) -/

/-- A number that fits the 16 bits of I is held exactly. -/
theorem toNat_ofNat_of_le {n : Nat} (h : n ≤ 0xFFFF) : (BitVec.ofNat 16 n).toNat = n := by
  rw [BitVec.toNat_ofNat, Nat.mod_eq_of_lt (Nat.lt_succ_of_le h)]

theorem glyphAddr_toNat (d : Byte) : (glyphAddr d).toNat = d.toNat * 5 := by
  have := d.isLt
  exact toNat_ofNat_of_le (by omega)

/-- An instruction that writes I and goes on. -/
theorem completes_setIndex_next {i : Instr} {s : State} {a : Word} {n : Nat}
    (hexec : exec i s = .next ({ s with index := a } : State).next) (ha : a.toNat = n) :
    Completes i s fun t => t.index.toNat = n ∧ t.pc = s.pc + 2#16 ∧ OnlyChanges [.index, .pc] noRegs s t :=
  ⟨_, hexec, ha, rfl, by simp [onlyChanges_iff]⟩

/-- Settles O32. -/
theorem indexLoads : Obligations.IndexLoads := by
  refine ⟨fun nnn => ⟨Laws.decode_encode (.ldI nnn), fun s => ?_⟩,
    fun x => ⟨Laws.decode_encode (.ldF x), fun s => ?_⟩⟩
  · exact completes_setIndex_next rfl (addrOperand_toNat nnn)
  · exact completes_setIndex_next rfl (glyphAddr_toNat (s.v x))

theorem exec_addI_of_overflow {s : State} {x : RegIx} (h : s.index.toNat + (s.v x).toNat > 0xFFFF) :
    exec (.addI x) s = .next (s.raise (.indexOverflow (s.index.toNat + (s.v x).toNat))) :=
  if_pos h

theorem exec_addI_of_fits {s : State} {x : RegIx} (h : s.index.toNat + (s.v x).toNat ≤ 0xFFFF) :
    exec (.addI x) s =
      .next ({ s with index := BitVec.ofNat 16 (s.index.toNat + (s.v x).toNat) } : State).next :=
  if_neg (Nat.not_lt.mpr h)

/-- Settles O33: a sum that does not overflow is below 2^16, so the 16 bits of I hold it exactly. -/
theorem indexAddOrOverflow : Obligations.IndexAddOrOverflow := by
  refine fun x => ⟨Laws.decode_encode (.addI x), fun s => ⟨fun hover => ?_, fun hfits => ?_⟩⟩
  · exact ⟨_, exec_addI_of_overflow hover, faultsWith_raise s _⟩
  · exact completes_setIndex_next (exec_addI_of_fits hfits) (toNat_ofNat_of_le hfits)

/-! ### Bytes stored at I (R102, R103) -/

section
variable {s : State} {addr : Word} {bs : List Byte} {n : Nat} (hlen : bs.length = n + 1)
include hlen

theorem State.memWrite_of_outOfBounds (h : addr.toNat + n > 0xFFF) : s.memWrite addr bs = none := by
  rw [State.memWrite_eq, if_pos (by omega)]

theorem State.memWrite_of_inBounds (h : addr.toNat + n ≤ 0xFFF) :
    s.memWrite addr bs = some (s.writeBytes addr.toNat bs) := by
  rw [State.memWrite_eq, if_neg (by omega)]

end

/-- Bytes written, another I and the next pc: the frame of Fx55. -/
theorem onlyChanges_writeBytes_setIndex_next (s : State) (a : Nat) (bs : List Byte) (index : Word) :
    OnlyChanges [.mem, .index, .pc] noRegs s ({ s.writeBytes a bs with index := index } : State).next := by
  rw [State.writeBytes_eq]
  simp [onlyChanges_iff]

/-- Bytes written and the next pc: the frame of Fx33. -/
theorem onlyChanges_writeBytes_next (s : State) (a : Nat) (bs : List Byte) :
    OnlyChanges [.mem, .pc] noRegs s (s.writeBytes a bs).next := by
  rw [State.writeBytes_eq]
  simp [onlyChanges_iff]

theorem exec_ldB_outOfBounds {s : State} {x : RegIx} (h : s.index.toNat + 2 > 0xFFF) :
    exec (.ldB x) s = .next (s.raise (.memoryBoundsError s.index)) := by
  simp only [exec, execLdB, State.memWrite_of_outOfBounds (bs := decimalDigits (s.v x)) rfl h]

theorem exec_ldB_inBounds {s : State} {x : RegIx} (h : s.index.toNat + 2 ≤ 0xFFF) :
    exec (.ldB x) s = .next (s.writeBytes s.index.toNat (decimalDigits (s.v x))).next := by
  simp only [exec, execLdB, State.memWrite_of_inBounds (bs := decimalDigits (s.v x)) rfl h]

/-- The digits of a byte, written in bounds, read back as exact numbers. -/
theorem State.readByte_writeBytes_decimalDigits {s : State} (hwf : s.MemoryWf) {a : Nat} (ha : a + 2 ≤ 0xFFF)
    (b : Byte) :
    ((s.writeBytes a (decimalDigits b)).readByte a).toNat = b.toNat / 100 ∧
    ((s.writeBytes a (decimalDigits b)).readByte (a + 1)).toNat = b.toNat / 10 % 10 ∧
    ((s.writeBytes a (decimalDigits b)).readByte (a + 2)).toNat = b.toNat % 10 := by
  have hm : a + (decimalDigits b).length ≤ memSize := Nat.succ_le_succ ha
  have stored (k : Nat) (hk : k < 3) := State.readByte_writeBytes_same hwf hm (k := k) hk
  have hundreds : (s.writeBytes a (decimalDigits b)).readByte a = _ := stored 0 (by decide)
  rw [hundreds, stored 1 (by decide), stored 2 (by decide)]
  simp only [decimalDigits, List.getElem_cons_zero, List.getElem_cons_succ, BitVec.toNat_ofNat]
  omega

/-- Settles O34. -/
theorem decimalDigitsAreStored : Obligations.DecimalDigitsAreStored := by
  refine fun x => ⟨Laws.decode_encode (.ldB x), fun s => ⟨fun hout => ?_, fun hin => ?_⟩⟩
  · exact ⟨_, exec_ldB_outOfBounds hout, faultsWith_raise s _⟩
  · refine ⟨_, exec_ldB_inBounds hin, fun hwf => ?_, fun a ha => ?_, ?_, onlyChanges_writeBytes_next s _ _⟩
    · exact State.readByte_writeBytes_decimalDigits hwf hin (s.v x)
    · exact State.readByte_writeBytes_other s ha
    · rw [State.writeBytes_eq]; rfl

theorem indexAfter_toNat {index : Word} {x : RegIx} (h : index.toNat + x.toNat ≤ 0xFFF) :
    (indexAfter index x).toNat = index.toNat + x.toNat + 1 :=
  toNat_ofNat_of_le (by omega)

theorem exec_storeRegs_outOfBounds {s : State} {x : RegIx} (h : s.index.toNat + x.toNat > 0xFFF) :
    exec (.storeRegs x) s = .next (s.raise (.memoryBoundsError s.index)) := by
  simp only [exec, execStoreRegs, State.memWrite_of_outOfBounds (s.regsUpTo_length x) h]

/-- Settles O35. -/
theorem registersAreStored : Obligations.RegistersAreStored := by
  refine fun x => ⟨Laws.decode_encode (.storeRegs x), fun s => ⟨fun hout => ?_, fun hin => ?_⟩⟩
  · exact ⟨_, exec_storeRegs_outOfBounds hout, faultsWith_raise s _⟩
  · refine ⟨_, exec_storeRegs_inBounds hin, fun hwf j hj => ?_, fun a ha => ?_, indexAfter_toNat hin, ?_,
      onlyChanges_writeBytes_setIndex_next s _ _ _⟩
    · exact State.readByte_writeBytes_regsUpTo hwf hin hj
    · exact State.readByte_writeBytes_other s (by rw [State.regsUpTo_length]; exact ha)
    · rw [State.writeBytes_eq]; rfl

/-! ### Bytes loaded from I (R104) -/

theorem exec_loadRegs_outOfBounds {s : State} {x : RegIx} (h : s.index.toNat + x.toNat > 0xFFF) :
    exec (.loadRegs x) s = .next (s.raise (.memoryBoundsError s.index)) := by
  have hout : 0 < x.toNat + 1 ∧ s.index.toNat + (x.toNat + 1) - 1 > 0xFFF := by omega
  simp only [exec, execLoadRegs, State.memRead_eq, if_pos hout]

theorem exec_loadRegs_inBounds {s : State} {x : RegIx} (h : s.index.toNat + x.toNat ≤ 0xFFF) :
    exec (.loadRegs x) s =
      .next ({ s.setRegsFrom ((List.range (x.toNat + 1)).map fun k => s.readByte (s.index.toNat + k)) with
        index := indexAfter s.index x } : State).next := by
  have hin : ¬ (0 < x.toNat + 1 ∧ s.index.toNat + (x.toNat + 1) - 1 > 0xFFF) := by omega
  simp only [exec, execLoadRegs, State.memRead_eq, if_neg hin]

/-- A register that one of the bytes is for holds that byte. -/
theorem State.v_setRegsFrom_map_range (s : State) (f : Nat → Byte) {n : Nat} {j : RegIx} (hj : j.toNat < n) :
    (s.setRegsFrom ((List.range n).map f)).v j = f j.toNat := by
  simp [State.v_setRegsFrom, hj]

/-- Settles O36. -/
theorem registersAreLoaded : Obligations.RegistersAreLoaded := by
  refine fun x => ⟨Laws.decode_encode (.loadRegs x), fun s => ⟨fun hout => ?_, fun hin => ?_⟩⟩
  · exact ⟨_, exec_loadRegs_outOfBounds hout, faultsWith_raise s _⟩
  · refine ⟨_, exec_loadRegs_inBounds hin, fun j hj => ?_, indexAfter_toNat hin, rfl, ?_⟩
    · exact State.v_setRegsFrom_map_range s _ (Nat.lt_succ_of_le hj)
    · simp +contextual [onlyChanges_iff, State.v_setRegsFrom_other]

/-- Settles O37: the bytes that the load reads are the ones that the store left, and I moves from the same start. -/
theorem storeThenLoadRestoresRegisters : Obligations.StoreThenLoadRestoresRegisters := by
  intro x s hwf hx
  obtain ⟨-, hstore⟩ := registersAreStored x
  obtain ⟨t, ht, hstored, -, htindex, -⟩ := (hstore s).2 hx
  refine ⟨t, ht, fun u hmem hindex => ?_⟩
  obtain ⟨-, hload⟩ := registersAreLoaded x
  obtain ⟨r, hr, hloaded, hrindex, -⟩ := (hload u).2 (hindex ▸ hx)
  rw [hindex] at hloaded hrindex
  refine ⟨r, hr, fun j hj => ?_, BitVec.eq_of_toNat_eq (hrindex.trans htindex.symm)⟩
  rw [hloaded j hj, hmem, hstored hwf j hj]

end Sys2Proof.Machine

/-! Settles O39, O40, O41 and O42. The sprite mask as the pixels that the sprite covers, one equation of Dxyn for each
of its outcomes, and then the pixels and VF after a draw. -/

namespace Sys2Proof.Machine

open Sys2Proof.Safety

/-! ### The sprite at I (R105, R106) -/

/-- The n bytes at I, as Dxyn reads them. -/
def State.spriteRows (s : State) (n : Nat) : List Byte :=
  (List.range n).map fun r => s.readByte (s.index.toNat + r)

theorem State.memRead_index_of_inBounds {s : State} {n : Nat} (h : InBounds s n) :
    s.memRead s.index n = some (s.spriteRows n) := by
  unfold InBounds at h
  rw [State.memRead_eq, if_neg (by omega), State.spriteRows]

theorem State.memRead_index_of_not_inBounds {s : State} {n : Nat} (h : ¬ InBounds s n) :
    s.memRead s.index n = none := by
  unfold InBounds at h
  rw [State.memRead_eq, if_pos (by omega)]

theorem State.spriteRows_congr {s s' : State} (hindex : s'.index = s.index)
    (hmem : ∀ a, s'.readByte a = s.readByte a) (n : Nat) : s'.spriteRows n = s.spriteRows n := by
  simp only [State.spriteRows, hindex, hmem]

theorem State.spriteRows_getD (s : State) {n r : Nat} (h : r < n) :
    (s.spriteRows n)[r]?.getD 0#8 = s.readByte (s.index.toNat + r) := by
  simp [State.spriteRows, h]

/-- No bit of a row past the last one is set. -/
theorem State.row_lt_of_spriteBit {s : State} {n r c : Nat} (h : spriteBit ((s.spriteRows n)[r]?.getD 0#8) c = true) :
    r < n := by
  by_contra hr
  simp [State.spriteRows, hr, spriteBit] at h

theorem spriteBit_eq_getLsbD (row : Byte) {c : Nat} (hc : c < 8) : spriteBit row c = row.getLsbD (7 - c) := by
  simp [spriteBit, BitVec.getMsbD, hc]

theorem column_lt_of_spriteBit {row : Byte} {c : Nat} (h : spriteBit row c = true) : c < 8 :=
  BitVec.lt_of_getMsbD h

/-- The pixels covered, in the model's rows and bits. -/
theorem spriteCovers_iff (s : State) (n X Y px py : Nat) :
    SpriteCovers s n X Y px py ↔
      ∃ r c, spriteBit ((s.spriteRows n)[r]?.getD 0#8) c = true ∧ px = X + c ∧ py = Y + r := by
  constructor
  · rintro ⟨r, hr, c, hc, hbit, hpx, hpy⟩
    exact ⟨r, c, by rwa [s.spriteRows_getD hr, spriteBit_eq_getLsbD _ hc], hpx, hpy⟩
  · rintro ⟨r, c, hbit, hpx, hpy⟩
    have hr := State.row_lt_of_spriteBit hbit
    have hc := column_lt_of_spriteBit hbit
    rw [s.spriteRows_getD hr, spriteBit_eq_getLsbD _ hc] at hbit
    exact ⟨r, hr, c, hc, hbit, hpx, hpy⟩

/-- The set bits of the mask are the on-screen pixels that the sprite covers. -/
theorem spriteMask_spriteRows_iff (s : State) (n X Y : Nat) (px : Fin 64) (py : Fin 32) :
    (spriteMask (s.spriteRows n) X Y py).getMsbD px = true ↔ SpriteCovers s n X Y px py := by
  simp only [spriteMask_getMsbD, spriteCovers_iff, Bool.and_eq_true, decide_eq_true_eq]
  constructor
  · rintro ⟨⟨hY, hX⟩, hbit⟩
    exact ⟨_, _, hbit, (Nat.add_sub_cancel' hX).symm, (Nat.add_sub_cancel' hY).symm⟩
  · rintro ⟨r, c, hbit, hpx, hpy⟩
    rw [hpx, hpy, Nat.add_sub_cancel_left, Nat.add_sub_cancel_left]
    exact ⟨⟨Nat.le_add_right Y r, Nat.le_add_right X c⟩, hbit⟩

theorem spriteOffScreen_spriteRows_iff (s : State) (n X Y : Nat) :
    spriteOffScreen (s.spriteRows n) X Y = true ↔ SpriteLeavesScreen s n X Y := by
  have hlen : (s.spriteRows n).length = n := by simp [State.spriteRows]
  simp only [spriteOffScreen_iff, SpriteLeavesScreen, spriteCovers_iff, hlen]
  constructor
  · rintro ⟨r, -, c, -, hbit, hoff⟩
    exact ⟨_, _, ⟨r, c, hbit, rfl, rfl⟩, hoff⟩
  · rintro ⟨px, py, ⟨r, c, hbit, rfl, rfl⟩, hoff⟩
    exact ⟨r, State.row_lt_of_spriteBit hbit, c, column_lt_of_spriteBit hbit, hbit, hoff⟩

/-! ### The outcomes of Dxyn (R108) -/

section
variable {s t : State} {x y : RegIx} {n : Nibble}

theorem exec_drw_outOfBounds (h : ¬ InBounds s n.toNat) :
    exec (.drw x y n) s = .next (s.raise (.memoryBoundsError s.index)) := by
  simp only [exec, execDrw, State.memRead_index_of_not_inBounds h]

theorem exec_drw_offScreen (hin : InBounds s n.toNat)
    (hoff : s.params.drawEdge = .fault ∧ SpriteLeavesScreen s n.toNat (s.v x).toNat (s.v y).toNat) :
    exec (.drw x y n) s = .next (s.raise (.drawBoundsError (s.v x) (s.v y))) := by
  rw [← spriteOffScreen_spriteRows_iff] at hoff
  simp only [exec, execDrw, State.memRead_index_of_inBounds hin, if_pos hoff]

theorem exec_drw_draws (hin : InBounds s n.toNat)
    (hon : ¬ (s.params.drawEdge = .fault ∧ SpriteLeavesScreen s n.toNat (s.v x).toNat (s.v y).toNat)) :
    exec (.drw x y n) s = .next (s.draw (s.spriteRows n.toNat) (s.v x).toNat (s.v y).toNat).next := by
  rw [← spriteOffScreen_spriteRows_iff] at hon
  simp only [exec, execDrw, State.memRead_index_of_inBounds hin, if_neg hon]

/-- A Dxyn that does not fault has passed both checks, and has drawn. -/
theorem exec_drw_of_not_faulted (h : exec (.drw x y n) s = .next t) (ht : t.isFaulted = false) :
    InBounds s n.toNat ∧
    ¬ (s.params.drawEdge = .fault ∧ SpriteLeavesScreen s n.toNat (s.v x).toNat (s.v y).toNat) ∧
    t = (s.draw (s.spriteRows n.toNat) (s.v x).toNat (s.v y).toNat).next := by
  by_cases hin : InBounds s n.toNat
  · by_cases hoff : s.params.drawEdge = .fault ∧ SpriteLeavesScreen s n.toNat (s.v x).toNat (s.v y).toNat
    · cases (exec_drw_offScreen hin hoff).symm.trans h
      cases ht
    · cases (exec_drw_draws hin hoff).symm.trans h
      exact ⟨hin, hoff, rfl⟩
  · cases (exec_drw_outOfBounds hin).symm.trans h
    cases ht

/-- Dxyn draws the same sprite at the same place in every state that agrees on what it reads but the screen. -/
theorem exec_drw_congr {s' : State} (hin : InBounds s n.toNat)
    (hon : ¬ (s.params.drawEdge = .fault ∧ SpriteLeavesScreen s n.toNat (s.v x).toNat (s.v y).toNat))
    (hindex : s'.index = s.index) (hx : s'.v x = s.v x) (hy : s'.v y = s.v y) (hparams : s'.params = s.params)
    (hmem : ∀ a, s'.readByte a = s.readByte a) :
    exec (.drw x y n) s' = .next (s'.draw (s.spriteRows n.toNat) (s.v x).toNat (s.v y).toNat).next := by
  have hrows := State.spriteRows_congr hindex hmem n.toNat
  rw [← spriteOffScreen_spriteRows_iff, ← hrows, spriteOffScreen_spriteRows_iff, ← hx, ← hy, ← hparams] at hon
  rw [InBounds, ← hindex] at hin
  rw [exec_drw_draws hin hon, hrows, hx, hy]

end

/-! ### The screen and VF after a draw (R108) -/

theorem State.pixel_draw (s : State) (rows : List Byte) (X Y : Nat) (px : Fin 64) (py : Fin 32) :
    (s.draw rows X Y).pixel px py = (s.pixel px py ^^ (spriteMask rows X Y py).getMsbD px) :=
  s.fb.pixel_xor (spriteMask rows X Y) px py

theorem State.v_draw_vF (s : State) (rows : List Byte) (X Y : Nat) :
    (s.draw rows X Y).v vF = flagByte (s.fb.meets (spriteMask rows X Y)) :=
  s.v_setV_same vF _

section
variable {s : State} {n X Y : Nat} (u : State)

theorem pixel_draw_of_covers {px : Fin 64} {py : Fin 32} (h : SpriteCovers s n X Y px py) :
    (u.draw (s.spriteRows n) X Y).pixel px py = !u.pixel px py := by
  rw [State.pixel_draw, (spriteMask_spriteRows_iff s n X Y px py).mpr h, Bool.xor_true]

theorem pixel_draw_of_not_covers {px : Fin 64} {py : Fin 32} (h : ¬ SpriteCovers s n X Y px py) :
    (u.draw (s.spriteRows n) X Y).pixel px py = u.pixel px py := by
  rw [← spriteMask_spriteRows_iff, Bool.not_eq_true] at h
  rw [State.pixel_draw, h, Bool.xor_false]

/-- The collision test asks for a covered pixel that is set. -/
theorem meets_spriteMask_iff :
    u.fb.meets (spriteMask (s.spriteRows n) X Y) = true ↔
      ∃ (px : Fin 64) (py : Fin 32), SpriteCovers s n X Y px py ∧ u.pixel px py = true := by
  simp only [Framebuffer.meets_iff, spriteMask_spriteRows_iff, State.pixel, and_comm]

theorem v_draw_vF_of_collision
    (h : ∃ (px : Fin 64) (py : Fin 32), SpriteCovers s n X Y px py ∧ u.pixel px py = true) :
    (u.draw (s.spriteRows n) X Y).v vF = 1#8 := by
  rw [State.v_draw_vF, (meets_spriteMask_iff u).mpr h]
  rfl

theorem v_draw_vF_of_no_collision
    (h : ∀ (px : Fin 64) (py : Fin 32), SpriteCovers s n X Y px py → u.pixel px py = false) :
    (u.draw (s.spriteRows n) X Y).v vF = 0#8 := by
  have hmeets : u.fb.meets (spriteMask (s.spriteRows n) X Y) = false := by
    rw [Bool.eq_false_iff, Ne, meets_spriteMask_iff]
    rintro ⟨px, py, hcov, hset⟩
    exact Bool.false_ne_true ((h px py hcov).symm.trans hset)
  rw [State.v_draw_vF, hmeets]
  rfl

end

theorem onlyChanges_draw_next (s : State) (rows : List Byte) (X Y : Nat) :
    OnlyChanges [.fb, .drawFlag, .pc] (· = vF) s (s.draw rows X Y).next := by
  simp +contextual [onlyChanges_iff, State.v_draw_other]

/-- XOR with the same mask twice changes nothing. -/
theorem Framebuffer.xor_xor (fb : Framebuffer) (mask : Nat → BitVec 64) : (fb.xor mask).xor mask = fb :=
  Framebuffer.pixel_ext fun px py => by simp

/-! ### The statements -/

/-- Settles O39. -/
theorem clearScreenClearsEveryPixel : Obligations.ClearScreenClearsEveryPixel :=
  ⟨Laws.decode_encode .cls,
    fun _ => ⟨_, rfl, Framebuffer.pixel_clear, rfl, rfl, by simp [onlyChanges_iff]⟩⟩

/-- Settles O40. -/
theorem drawFlipsCoveredPixels : Obligations.DrawFlipsCoveredPixels := by
  refine fun x y n => ⟨Laws.decode_encode (.drw x y n), fun s => ⟨fun hout => ?_, fun hin hedge hoff => ?_,
    fun hin hon => ?_⟩⟩
  · exact ⟨_, exec_drw_outOfBounds hout, faultsWith_raise s _⟩
  · exact ⟨_, exec_drw_offScreen hin ⟨hedge, hoff⟩, faultsWith_raise s _⟩
  · exact ⟨_, exec_drw_draws hin hon, fun px py => ⟨pixel_draw_of_covers s, pixel_draw_of_not_covers s⟩,
      v_draw_vF_of_collision s, v_draw_vF_of_no_collision s, rfl, rfl, onlyChanges_draw_next s _ _ _⟩

/-- Settles O41: both draws XOR the same mask, and a covered pixel is set before the second where it was not before the
first. -/
theorem drawingTwiceRestoresTheScreen : Obligations.DrawingTwiceRestoresTheScreen := by
  intro x y n s t t' u _ hdraw ht hfb hindex hx hy hparams hmem hagain
  obtain ⟨hin, hon, rfl⟩ := exec_drw_of_not_faulted hdraw ht
  cases (exec_drw_congr hin hon hindex hx hy hparams hmem).symm.trans hagain
  have flipped {px : Fin 64} {py : Fin 32}
      (hcov : SpriteCovers s n.toNat (s.v x).toNat (s.v y).toNat px py) : t'.pixel px py = !s.pixel px py :=
    (congrArg (·.pixel px py) hfb).trans (pixel_draw_of_covers s hcov)
  refine ⟨?_, fun ⟨px, py, hcov, hclear⟩ => ?_, fun hset => ?_⟩
  · simp only [State.next_fb, State.draw_fb, hfb, Framebuffer.xor_xor]
  · exact v_draw_vF_of_collision t' ⟨px, py, hcov, by rw [flipped hcov, hclear, Bool.not_false]⟩
  · exact v_draw_vF_of_no_collision t' fun px py hcov => by rw [flipped hcov, hset px py hcov, Bool.not_true]

/-- Settles O42: on a clear screen the draw leaves its mask, and no covered pixel was set. -/
theorem clearThenDrawShowsTheSprite : Obligations.ClearThenDrawShowsTheSprite := by
  intro x y n s _
  refine ⟨_, rfl, fun u hdraw hu => ?_⟩
  obtain ⟨-, -, rfl⟩ := exec_drw_of_not_faulted hdraw hu
  refine ⟨fun px py => ?_, v_draw_vF_of_no_collision _ fun px py _ => Framebuffer.pixel_clear px py⟩
  rw [← spriteMask_spriteRows_iff, State.next_pixel, State.pixel_draw, State.next_pixel, State.pixel,
    Framebuffer.pixel_clear, Bool.false_xor]
  exact Iff.rfl

end Sys2Proof.Machine

/-! Settles O43, O44 and O45. The key skips by the key array, the wait of Fx0A under each host operation, and the timer
registers with the Tick that follows. -/

namespace Sys2Proof.Machine

open Sys2Proof.Safety

/-! ### Key skips (R110, R111) -/

section
variable {s : State} (x : RegIx)

theorem exec_skp_of_index_above (h : (s.v x).toNat > 15) :
    exec (.skp x) s = .next (s.raise (.keyIndexError (s.v x))) := by
  simp [exec, execSkp, (s.keyAt_eq_none_iff _).mpr h]

theorem exec_sknp_of_index_above (h : (s.v x).toNat > 15) :
    exec (.sknp x) s = .next (s.raise (.keyIndexError (s.v x))) := by
  simp [exec, execSknp, (s.keyAt_eq_none_iff _).mpr h]

variable {x} {pressed : Bool} (hkey : s.keys[(s.v x).toNat]? = some pressed)
include hkey

theorem exec_skp_of_key : exec (.skp x) s = .next (s.skipIf pressed) := by
  simp [exec, execSkp, State.keyAt_eq_getElem?, hkey]

theorem exec_sknp_of_key : exec (.sknp x) s = .next (s.skipIf (!pressed)) := by
  simp [exec, execSknp, State.keyAt_eq_getElem?, hkey]

end

/-- Settles O43: the key array has an entry exactly for an index up to 15. -/
theorem keySkipsReadTheKeyArray : Obligations.KeySkipsReadTheKeyArray := by
  refine fun x => ⟨Laws.decode_encode (.skp x), Laws.decode_encode (.sknp x), fun s => ⟨fun hout => ?_,
    fun pressed hkey => ⟨?_, ?_⟩⟩⟩
  · exact ⟨⟨_, exec_skp_of_index_above x hout, faultsWith_raise s _⟩,
      _, exec_sknp_of_index_above x hout, faultsWith_raise s _⟩
  · exact ⟨_, exec_skp_of_key hkey, by cases pressed <;> rfl, onlyChanges_skipIf s _⟩
  · exact ⟨_, exec_sknp_of_key hkey, by cases pressed <;> rfl, onlyChanges_skipIf s _⟩

/-! ### Key events and Ticks outside `Faulted` (R126, R133, R134) -/

section
variable {s : State}

theorem State.isFaulted_of_running (h : s.status = .running) : s.isFaulted = false := by
  simp [State.isFaulted, h]

theorem onlyChanges_setKey (s : State) (k : KeyIx) (b : Bool) : OnlyChanges [.keys] noRegs s (s.setKey k b) := by
  simp [onlyChanges_iff, State.setKey]

theorem State.keyUp_of_not_faulted (h : s.isFaulted = false) (k : KeyIx) : s.keyUp k = s.setKey k false := by
  simp [State.keyUp, h]

/-- A Tick changes the timers alone, and in `Faulted` not even them. -/
theorem onlyChanges_tick (s : State) : OnlyChanges [.dt, .st] noRegs s s.tick := by
  obtain ⟨-, ht⟩ | ⟨-, ht⟩ := s.tick_cases <;> rw [ht] <;> simp [onlyChanges_iff]

/-- A delay of zero stays (R126). -/
theorem State.tick_dt_of_zero (h : s.dt = 0#8) : s.tick.dt = 0#8 := by
  obtain ⟨-, ht⟩ | ⟨-, ht⟩ := s.tick_cases
  · rw [ht, h]
  · rw [ht]; exact if_pos h

theorem State.tickBeeps_iff (s : State) : s.tickBeeps = true ↔ s.isFaulted = false ∧ s.st = 1#8 := by
  simp [State.tickBeeps]

end

/-! ### The wait of Fx0A (R113) -/

section
variable {s : State} {x : RegIx} (hwait : s.status = .waitKey x)
include hwait

theorem State.isFaulted_of_waitKey : s.isFaulted = false := by
  simp [State.isFaulted, hwait]

theorem State.keyDown_of_waitKey (k : KeyIx) :
    s.keyDown k = { ((s.setKey k true).setV x (k.setWidth 8)).next with status := .running } := by
  simp [State.keyDown, hwait]

theorem State.key_keyDown_of_waitKey (k j : KeyIx) : (s.keyDown k).key j = if k = j then true else s.key j := by
  rw [State.keyDown_of_waitKey hwait]
  exact s.key_setKey k j true

/-- A KeyDown writes the index of its key to the waiting register and ends the wait. -/
theorem keyDown_completes_wait (k : KeyIx) :
    ((s.keyDown k).v x).toNat = k.toNat ∧ (s.keyDown k).pc = s.pc + 2#16 ∧ (s.keyDown k).status = .running ∧
      OnlyChanges [.keys, .pc, .status] (· = x) s (s.keyDown k) := by
  rw [State.keyDown_of_waitKey hwait]
  refine ⟨?_, rfl, rfl, ?_⟩
  · have hv := (s.setKey k true).v_setV_same x (k.setWidth 8)
    exact (congrArg BitVec.toNat hv).trans (BitVec.toNat_setWidth_of_le (by decide))
  · simp +contextual [onlyChanges_iff, State.v_setV_other, State.setKey]

end

/-- Settles O44: Fx0A leaves a waiting state, whatever its keys are. -/
theorem keyWaitLastsUntilKeyDown : Obligations.KeyWaitLastsUntilKeyDown := by
  refine fun x => ⟨Laws.decode_encode (.ldVxK x), fun s => ?_⟩
  have hwait : ({ s with status := .waitKey x } : State).status = .waitKey x := rfl
  refine ⟨_, rfl, hwait, by simp [onlyChanges_iff], step_of_not_running nofun, fun k => ?_, onlyChanges_tick _,
    fun k => ⟨?_, fun j hj => ?_, keyDown_completes_wait hwait k⟩⟩
  · rw [State.keyUp_of_not_faulted (State.isFaulted_of_waitKey hwait)]
    exact ⟨(State.key_setKey _ k k false).trans (if_pos rfl), onlyChanges_setKey _ k false⟩
  · rw [State.key_keyDown_of_waitKey hwait, if_pos rfl]
  · rw [State.key_keyDown_of_waitKey hwait, if_neg hj.symm]

/-! ### The timer registers (R112, R114, R115) -/

/-- Settles O45: a Tick keeps a DT of zero, and outside `Faulted` it beeps exactly at ST = 1. -/
theorem timerRegistersAreReadAndWritten : Obligations.TimerRegistersAreReadAndWritten := by
  refine fun x => ⟨Laws.decode_encode (.ldVxDt x), Laws.decode_encode (.ldDtVx x), Laws.decode_encode (.ldStVx x),
    fun s => ⟨completes_setV_next rfl, ?_, ?_⟩⟩
  · exact ⟨_, rfl, rfl, fun hzero => State.tick_dt_of_zero hzero, rfl, by simp [onlyChanges_iff]⟩
  · refine ⟨_, rfl, rfl, fun hs => ?_, rfl, by simp [onlyChanges_iff]⟩
    rw [State.tickBeeps_iff]
    exact and_iff_right (State.isFaulted_of_running hs)

end Sys2Proof.Machine

/-! Settles O9 and O10. What a Step that faults has done, and the condition under which each instruction faults. -/

namespace Sys2Proof.Machine

open Sys2Proof.Safety

/-! ### A Step that faults (R117) -/

/-- A Step in `Running` that ends in `Faulted` has raised one fault: on the state as it was, where nothing could be
fetched, or else on the state whose latch holds the fetched word. -/
theorem step_faulted_cases {s t : State} (hs : s.status = .running) (h : step s = .next t)
    (ht : t.isFaulted = true) :
    ∃ f, (s.fetch = none ∧ t = s.raise f) ∨ ∃ w, s.fetch = some w ∧ t = (s.latch w).raise f := by
  obtain ⟨hn, -⟩ | ⟨-, hf, hr⟩ | ⟨w, -, hf, -, hr⟩ | ⟨w, i, -, hf, -, hr⟩ := step_cases h
  · exact absurd hs hn
  · cases hr; exact ⟨_, .inl ⟨hf, rfl⟩⟩
  · cases hr; exact ⟨_, .inr ⟨w, hf, rfl⟩⟩
  · obtain ⟨f, rfl⟩ := eq_raise_of_isFaulted (s := s.latch w) hs hr.symm ht
    exact ⟨f, .inr ⟨w, hf, rfl⟩⟩

/-- A fault after the latch is written changes the latch and the status alone. -/
theorem onlyChanges_latch_raise (s : State) (w : Word) (f : Fault) :
    OnlyChanges [.status, .opcode] noRegs s ((s.latch w).raise f) := by
  simp [onlyChanges_iff]

/-- Settles O9, by where the fault was raised: at the fetch, or after the latch was written. -/
theorem faultsArePrecise : Obligations.FaultsArePrecise := by
  intro s t f p o hs h hfault
  obtain ⟨f', ⟨hf, rfl⟩ | ⟨w, hf, rfl⟩⟩ :=
    step_faulted_cases hs h ((State.isFaulted_iff t).mpr ⟨f, p, o, hfault⟩)
  · cases hfault
    refine ⟨rfl, rfl, onlyChanges_latch_raise s s.opcode f, fun _ => rfl, fun hpc => ?_⟩
    cases hf.symm.trans (State.fetch_eq_some hpc)
  · cases hfault
    refine ⟨rfl, rfl, onlyChanges_latch_raise s w f, fun hpc => ?_, fun hpc => ?_⟩
    · cases hf.symm.trans (State.fetch_eq_none hpc)
    · cases hf.symm.trans (State.fetch_eq_some hpc); rfl

/-! ### The condition under which an instruction faults (R116) -/

@[simp] theorem State.skipIf_status (s : State) (c : Bool) : (s.skipIf c).status = s.status := by
  rw [State.skipIf_eq]

@[simp] theorem State.writeBytes_status (s : State) (a : Nat) (bs : List Byte) :
    (s.writeBytes a bs).status = s.status := by
  rw [State.writeBytes_eq]

@[simp] theorem State.writeResultAndFlag_status (s : State) (x y : RegIx) (result flag : Byte → Byte → Byte) :
    (s.writeResultAndFlag x y result flag).status = s.status := by
  rw [State.writeResultAndFlag_eq]

/-- An instruction faults exactly under `c` where it raises a fault under `c` and goes on in `Running` otherwise. -/
theorem isFaulted_iff_of_exec {i : Instr} {s t : State} {c : Prop} (h : exec i s = .next t)
    (hfault : c → ∃ f, exec i s = .next (s.raise f))
    (hrun : ¬ c → ∃ u, exec i s = .next u ∧ u.status = .running) : t.isFaulted = true ↔ c := by
  by_cases hc : c
  · obtain ⟨f, hf⟩ := hfault hc
    cases hf.symm.trans h
    exact iff_of_true rfl hc
  · obtain ⟨u, hu, hs⟩ := hrun hc
    cases hu.symm.trans h
    simp [State.isFaulted_of_running hs, hc]

/-- Settles O10: each instruction of R116 by its equations on the two sides of its condition, and the status that every
other instruction leaves. -/
theorem onlyListedConditionsFault : Obligations.OnlyListedConditionsFault := by
  intro i s t hs h
  have keyOf (x : RegIx) (hx : ¬ (s.v x).toNat > 15) : ∃ pressed, s.keys[(s.v x).toNat]? = some pressed :=
    ⟨_, Vector.getElem?_eq_getElem (by omega)⟩
  cases i with
  | ret =>
    refine isFaulted_iff_of_exec h (fun h0 => ⟨_, exec_ret_of_empty h0⟩) fun hpos => ?_
    obtain ⟨n, hn⟩ := Nat.exists_eq_succ_of_ne_zero hpos
    exact ⟨_, exec_ret_of_top hn (Vector.getElem?_eq_getElem (by omega)), hs⟩
  | call nnn =>
    exact isFaulted_iff_of_exec h (fun hfull => ⟨_, exec_call_of_full nnn hfull⟩)
      fun hroom => ⟨_, exec_call_of_room nnn (by omega), hs⟩
  | addI x =>
    exact isFaulted_iff_of_exec h (fun hover => ⟨_, exec_addI_of_overflow hover⟩)
      fun hfits => ⟨_, exec_addI_of_fits (Nat.not_lt.mp hfits), hs⟩
  | skp x =>
    refine isFaulted_iff_of_exec h (fun hout => ⟨_, exec_skp_of_index_above x hout⟩) fun hin => ?_
    obtain ⟨pressed, hkey⟩ := keyOf x hin
    exact ⟨_, exec_skp_of_key hkey, (s.skipIf_status _).trans hs⟩
  | sknp x =>
    refine isFaulted_iff_of_exec h (fun hout => ⟨_, exec_sknp_of_index_above x hout⟩) fun hin => ?_
    obtain ⟨pressed, hkey⟩ := keyOf x hin
    exact ⟨_, exec_sknp_of_key hkey, (s.skipIf_status _).trans hs⟩
  | ldB x =>
    exact isFaulted_iff_of_exec h (fun hout => ⟨_, exec_ldB_outOfBounds hout⟩)
      fun hin => ⟨_, exec_ldB_inBounds (Nat.not_lt.mp hin), (s.writeBytes_status _ _).trans hs⟩
  | storeRegs x =>
    exact isFaulted_iff_of_exec h (fun hout => ⟨_, exec_storeRegs_outOfBounds hout⟩)
      fun hin => ⟨_, exec_storeRegs_inBounds (Nat.not_lt.mp hin), (s.writeBytes_status _ _).trans hs⟩
  | loadRegs x =>
    exact isFaulted_iff_of_exec h (fun hout => ⟨_, exec_loadRegs_outOfBounds hout⟩)
      fun hin => ⟨_, exec_loadRegs_inBounds (Nat.not_lt.mp hin), hs⟩
  | drw x y n =>
    refine isFaulted_iff_of_exec h (fun hbad => ?_) fun hgood => ?_
    · by_cases hin : InBounds s n.toNat
      · exact ⟨_, exec_drw_offScreen hin (hbad.resolve_left (not_not_intro hin))⟩
      · exact ⟨_, exec_drw_outOfBounds hin⟩
    · obtain ⟨hin, hon⟩ := not_or.mp hgood
      exact ⟨_, exec_drw_draws (not_not.mp hin) hon, hs⟩
  | ldVxK x => cases h; exact iff_of_false Bool.false_ne_true id
  | seImm | sneImm | seReg | sneReg =>
    exact isFaulted_iff_of_exec h False.elim fun _ => ⟨_, rfl, (s.skipIf_status _).trans hs⟩
  | addReg | subReg | shrReg | subnReg | shlReg =>
    exact isFaulted_iff_of_exec h False.elim fun _ => ⟨_, rfl, (s.writeResultAndFlag_status _ _ _ _).trans hs⟩
  | _ => exact isFaulted_iff_of_exec h False.elim fun _ => ⟨_, rfl, hs⟩

end Sys2Proof.Machine

/-! Settles O14 and O15. Each host operation keeps the invariant, so every state that a run reaches from Reset meets
it. -/

namespace Sys2Proof.Machine

open Sys2Proof.Safety

/-! ### What the invariant reads -/

section
variable {s : State} (hinv : StateInvariant s)
include hinv

/-- The invariant reads nothing but the memory, pc, the stack entries, the latch, the status and the parameters. -/
theorem invariant_update (regs : Vector Byte 16) (index : Word) (sp : Fin 17) (fb : Framebuffer) (drawFlag : Bool)
    (dt st : Byte) (keys : Vector Bool 16) (draws : Nat) :
    StateInvariant ⟨s.mem, regs, index, s.pc, s.stack, sp, fb, drawFlag, dt, st, keys, s.opcode, s.status, s.params,
      draws⟩ where
  memory := hinv.memory
  pcBound := hinv.pcBound
  stackBound := hinv.stackBound
  waitPc := hinv.waitPc
  faultRecord := hinv.faultRecord

/-! ### The host operations (R126, R133 to R137, R143) -/

theorem tick_invariant : StateInvariant s.tick := by
  obtain ⟨-, ht⟩ | ⟨-, ht⟩ := s.tick_cases <;> rw [ht]
  · exact hinv
  · exact invariant_update hinv _ _ _ _ _ _ _ _ _

theorem setKey_invariant (k : KeyIx) (b : Bool) : StateInvariant (s.setKey k b) :=
  invariant_update hinv _ _ _ _ _ _ _ _ _

/-- A completed wait moves pc on from the address that Fx0A was fetched from. -/
theorem keyDown_invariant (k : KeyIx) : StateInvariant (s.keyDown k) := by
  obtain ⟨-, hk⟩ | ⟨-, hk⟩ | ⟨x, hwait, hk⟩ := s.keyDown_cases k <;> rw [hk]
  · exact hinv
  · exact setKey_invariant hinv k true
  · exact {
      memory := hinv.memory
      pcBound := toNat_add_le_highestPc (hinv.waitPc x hwait) (by decide)
      stackBound := hinv.stackBound
      waitPc := fun _ h => nomatch h
      faultRecord := fun _ _ _ h => nomatch h }

theorem keyUp_invariant (k : KeyIx) : StateInvariant (s.keyUp k) := by
  unfold State.keyUp
  split
  · exact hinv
  · exact setKey_invariant hinv k false

theorem drawAck_invariant : StateInvariant s.drawAck := by
  unfold State.drawAck
  split
  · exact hinv
  · exact invariant_update hinv _ _ _ _ _ _ _ _ _

/-- The longest ROM ends at the last byte of memory (R137). -/
theorem load_invariant {t : State} {bytes : List Byte} (h : s.load bytes = some t) : StateInvariant t := by
  obtain ⟨-, hl⟩ | ⟨hlen, hl⟩ := s.load_cases bytes <;> cases hl.symm.trans h
  have hwf : (s.writeBytes programOrigin bytes).MemoryWf :=
    State.writeBytes_memoryWf hinv.memory (Nat.add_le_add_left hlen programOrigin)
  rw [State.writeBytes_eq] at hwf ⊢
  exact {
    memory := hwf
    pcBound := hinv.pcBound
    stackBound := hinv.stackBound
    waitPc := hinv.waitPc
    faultRecord := hinv.faultRecord }

end

/-- Reset keeps the parameters and the count of draws, which the invariant does not read. -/
theorem hostReset_invariant (s : State) : StateInvariant s.hostReset :=
  invariant_update (State.resetWith_invariant s.params) _ _ _ _ _ _ _ _ _

/-- Settles O14, by cases over what the host operation can do to the state. -/
theorem hostOperationsKeepInvariant : Obligations.HostOperationsKeepInvariant := by
  intro op s t o hop hinv h
  obtain ⟨hstep, -⟩ | ⟨-, rfl⟩ | ⟨k, -, rfl⟩ | ⟨k, -, rfl⟩ | ⟨-, rfl⟩ | ⟨bytes, -, hl⟩ | ⟨-, rfl⟩ | ⟨-, rfl⟩ :=
    perform_cases h
  · exact absurd hstep hop
  · exact tick_invariant hinv
  · exact keyDown_invariant hinv k
  · exact keyUp_invariant hinv k
  · exact drawAck_invariant hinv
  · obtain hl | ⟨-, rfl⟩ := hl
    · exact load_invariant hinv hl
    · exact hinv
  · exact hostReset_invariant s
  · exact hinv

/-! ### Runs of host operations (R128) -/

theorem perform_step_of_next {s t : State} (h : step s = .next t) :
    perform .step s = .next (t, .stepResult t.status) := by
  simp only [perform, h]

/-- Every host operation answers a next state (R130). -/
theorem perform_next (op : HostOp) (s : State) : ∃ t o, perform op s = .next (t, o) := by
  cases op with
  | step =>
    obtain ⟨t, ht⟩ := stepAlwaysAnswersNextState s
    exact ⟨_, _, perform_step_of_next ht⟩
  | load bytes => simp only [perform]; split <;> exact ⟨_, _, rfl⟩
  | _ => exact ⟨_, _, rfl⟩

theorem perform_invariant {op : HostOp} {s t : State} {o : HostOutput} (hinv : StateInvariant s)
    (h : perform op s = .next (t, o)) : StateInvariant t := by
  by_cases hop : op = .step
  · subst hop
    obtain ⟨u, hu⟩ := stepAlwaysAnswersNextState s
    cases (perform_step_of_next hu).symm.trans h
    exact stepKeepsInvariant s t hinv hu
  · exact hostOperationsKeepInvariant op s t o hop hinv h

/-- A run is its first operation and then the run of the others. -/
theorem performAll_cons_of_next {op : HostOp} {ops : List HostOp} {s t u : State} {o : HostOutput}
    {os : List HostOutput} (h : perform op s = .next (t, o)) (hrest : performAll ops t = .next (u, os)) :
    performAll (op :: ops) s = .next (u, o :: os) := by
  simp only [performAll, h, hrest]

/-- A run from a state that meets the invariant ends in one, with the parameters as they were and one output for each
operation. -/
theorem performAll_invariant (ops : List HostOp) {s : State} (hinv : StateInvariant s) :
    ∃ t os, performAll ops s = .next (t, os) ∧ StateInvariant t ∧ t.params = s.params ∧ os.length = ops.length := by
  induction ops generalizing s with
  | nil => exact ⟨s, [], rfl, hinv, rfl, rfl⟩
  | cons op ops ih =>
    obtain ⟨t, o, ht⟩ := perform_next op s
    obtain ⟨u, os, hu, huinv, huparams, hlen⟩ := ih (perform_invariant hinv ht)
    exact ⟨u, o :: os, performAll_cons_of_next ht hu, huinv, huparams.trans (parametersNeverChange op s t o ht),
      congrArg Nat.succ hlen⟩

/-- Settles O15: Reset meets the invariant, and a run keeps it. -/
theorem everyReachableStateMeetsInvariant : Obligations.EveryReachableStateMeetsInvariant :=
  fun p ops => performAll_invariant ops (State.resetWith_invariant p)

end Sys2Proof.Machine

/-! Settles O46, O47, O48 and O49. The timers after one Tick and after many, the key events and DrawAck by status, and
the bytes that a Load places. -/

namespace Sys2Proof.Machine

open Sys2Proof.Safety

/-! ### Frames -/

theorem onlyChanges_refl (P : List Part) (R : RegIx → Prop) (s : State) : OnlyChanges P R s s := by
  simp [onlyChanges_iff]

theorem onlyChanges_trans {P : List Part} {R : RegIx → Prop} {s t u : State} (hst : OnlyChanges P R s t)
    (htu : OnlyChanges P R t u) : OnlyChanges P R s u := by
  obtain ⟨hparts, hregs⟩ := hst
  obtain ⟨hparts', hregs'⟩ := htu
  refine ⟨fun p hp => ?_, fun r hr => (hregs' r hr).trans (hregs r hr)⟩
  have hsame := hparts p hp
  have hsame' := hparts' p hp
  cases p with
  | mem => exact fun a => (hsame' a).trans (hsame a)
  | _ => exact hsame'.trans hsame

/-! ### One Tick (R126, R127) -/

theorem delayAfterTick_toNat_of_gt_one (p : DelayAtZero) {dt : Byte} (h : dt.toNat > 1) :
    (delayAfterTick p dt).toNat = dt.toNat - 1 := by
  have hzero : dt ≠ 0#8 := by rintro rfl; exact absurd h (by decide)
  have hone : dt - 1#8 ≠ 0#8 := by bv_omega
  rw [delayAfterTick, if_neg hzero, if_neg fun hreload => hone hreload.1]
  bv_omega

/-- Under `Hold` the count stops at 0. -/
theorem delayAfterTick_hold_toNat (dt : Byte) : (delayAfterTick .hold dt).toNat = dt.toNat - 1 := by
  unfold delayAfterTick
  split
  · next hzero => rw [hzero]; rfl
  · next hzero => rw [if_neg fun hreload => nomatch hreload.2]; bv_omega

/-- Under `Reload60` no decrement leaves 0. -/
theorem delayAfterTick_reload60_ne_zero {dt : Byte} (h : dt ≠ 0#8) : delayAfterTick .reload60 dt ≠ 0#8 := by
  rw [delayAfterTick, if_neg h]
  split
  · decide
  · next hkeep => exact fun hzero => hkeep ⟨hzero, rfl⟩

theorem soundAfterTick_toNat (st : Byte) : (soundAfterTick st).toNat = st.toNat - 1 := by
  unfold soundAfterTick
  split
  · next hzero => rw [hzero]; rfl
  · bv_omega

section
variable {s : State} (hs : s.isFaulted = false)
include hs

theorem State.tick_of_not_faulted :
    s.tick = { s with dt := delayAfterTick s.params.delayAtZero s.dt, st := soundAfterTick s.st } := by
  simp [State.tick, hs]

theorem State.tick_dt : s.tick.dt = delayAfterTick s.params.delayAtZero s.dt := by
  rw [State.tick_of_not_faulted hs]

theorem State.tick_st_toNat : s.tick.st.toNat = s.st.toNat - 1 := by
  rw [State.tick_of_not_faulted hs]
  exact soundAfterTick_toNat s.st

end

/-- In `Faulted` nothing ticks and nothing beeps (R118). -/
theorem State.tick_of_faulted {s : State} (hs : s.isFaulted = true) : s.tick = s ∧ s.tickBeeps = false := by
  simp [State.tick, State.tickBeeps, hs]

/-- Settles O46. -/
theorem tickCountsTimersDown : Obligations.TickCountsTimersDown := by
  refine fun s => ⟨State.tick_of_faulted, fun hs => ?_⟩
  rw [State.tick_dt hs, State.tick_st_toNat hs]
  refine ⟨fun hzero => ?_, delayAfterTick_toNat_of_gt_one _, fun hone hhold => ?_, fun hone hreload => ?_, rfl, ?_,
    onlyChanges_tick s⟩
  · rw [hzero]; rfl
  · rw [hone, hhold]; rfl
  · rw [hone, hreload]; rfl
  · rw [State.tickBeeps_iff, ← BitVec.toNat_inj]
    exact ⟨fun ⟨_, hone⟩ => ⟨hone, by rw [hone]; rfl⟩, fun ⟨hone, _⟩ => ⟨hs, hone⟩⟩

/-! ### Many Ticks (R126, R151) -/

/-- A Tick changes no status. -/
@[simp] theorem State.tick_isFaulted (s : State) : s.tick.isFaulted = s.isFaulted := by
  obtain ⟨-, ht⟩ | ⟨-, ht⟩ := s.tick_cases <;> rw [ht]
  rfl

/-- Settles O47, by induction on the number of Ticks: what one Tick does, and then the others from there. -/
theorem delayTimerOverManyTicks : Obligations.DelayTimerOverManyTicks := by
  intro n
  induction n with
  | zero => exact fun s _ => ⟨s, [], rfl, fun _ => rfl, fun _ h => h, rfl, onlyChanges_refl _ _ s⟩
  | succ n ih =>
    intro s hs
    obtain ⟨t, os, hrun, hhold, hreload, hst, hframe⟩ := ih s.tick (s.tick_isFaulted.trans hs)
    rw [State.tick_params, State.tick_dt hs] at hhold hreload
    rw [State.tick_st_toNat hs] at hst
    refine ⟨t, .ticked s.tickBeeps :: os, performAll_cons_of_next rfl hrun, fun hp => ?_, fun hp hdt => ?_, ?_,
      onlyChanges_trans (onlyChanges_tick s) hframe⟩
    · rw [hhold hp, hp, delayAfterTick_hold_toNat]; omega
    · refine hreload hp ?_
      rw [hp]
      exact delayAfterTick_reload60_ne_zero hdt
    · rw [hst]; omega

/-! ### Key events and DrawAck (R133 to R135) -/

section
variable {s : State}

theorem State.keyDown_of_running (hs : s.status = .running) (k : KeyIx) : s.keyDown k = s.setKey k true := by
  simp [State.keyDown, hs]

theorem State.keyDown_of_faulted (hs : s.isFaulted = true) (k : KeyIx) : s.keyDown k = s := by
  obtain ⟨f, p, o, hf⟩ := (State.isFaulted_iff s).mp hs
  simp [State.keyDown, hf]

theorem State.keyUp_of_faulted (hs : s.isFaulted = true) (k : KeyIx) : s.keyUp k = s := by
  simp [State.keyUp, hs]

theorem State.drawAck_of_faulted (hs : s.isFaulted = true) : s.drawAck = s := by
  simp [State.drawAck, hs]

theorem State.drawAck_of_not_faulted (hs : s.isFaulted = false) : s.drawAck = { s with drawFlag := false } := by
  simp [State.drawAck, hs]

/-- Outside `Faulted` a KeyDown presses its key, whether it completes a wait or not. -/
theorem State.key_keyDown_of_not_faulted (hs : s.isFaulted = false) (k j : KeyIx) :
    (s.keyDown k).key j = if k = j then true else s.key j := by
  obtain ⟨hf, -⟩ | ⟨-, hk⟩ | ⟨x, hwait, -⟩ := s.keyDown_cases k
  · cases hs.symm.trans hf
  · rw [hk, State.key_setKey]
  · exact State.key_keyDown_of_waitKey hwait k j

theorem onlyChanges_keyUp (s : State) (k : KeyIx) : OnlyChanges [.keys] noRegs s (s.keyUp k) := by
  unfold State.keyUp
  split
  · exact onlyChanges_refl _ _ s
  · exact onlyChanges_setKey s k false

theorem onlyChanges_drawAck (s : State) : OnlyChanges [.drawFlag] noRegs s s.drawAck := by
  unfold State.drawAck
  split
  · exact onlyChanges_refl _ _ s
  · simp [onlyChanges_iff]

end

/-- Settles O48, by status. -/
theorem keyEventsAndDrawAck : Obligations.KeyEventsAndDrawAck := by
  refine fun s k => ⟨fun hf => ?_, fun hs => ⟨fun j => ?_, fun j => ?_, onlyChanges_keyUp s k, ?_,
    onlyChanges_drawAck s⟩, fun hs => ?_, fun x hwait => keyDown_completes_wait hwait k⟩
  · exact ⟨State.keyDown_of_faulted hf k, State.keyUp_of_faulted hf k, State.drawAck_of_faulted hf⟩
  · simp only [State.key_keyDown_of_not_faulted hs, eq_comm]
  · simp only [State.keyUp_of_not_faulted hs, State.key_setKey, eq_comm]
  · rw [State.drawAck_of_not_faulted hs]
  · rw [State.keyDown_of_running hs]; exact onlyChanges_setKey s k true

/-! ### Load (R137) -/

theorem onlyChanges_writeBytes (s : State) (a : Nat) (bs : List Byte) :
    OnlyChanges [.mem] noRegs s (s.writeBytes a bs) := by
  rw [State.writeBytes_eq]
  simp [onlyChanges_iff]

theorem onlyChanges_load {s t : State} {bytes : List Byte} (h : s.load bytes = some t) :
    OnlyChanges [.mem] noRegs s t := by
  obtain ⟨-, hl⟩ | ⟨-, hl⟩ := s.load_cases bytes <;> cases hl.symm.trans h
  exact onlyChanges_writeBytes s _ _

theorem perform_load_of_none {s : State} {bytes : List Byte} (h : s.load bytes = none) :
    perform (.load bytes) s = .next (s, .loaded false) := by
  simp only [perform, h]

theorem perform_load_of_some {s t : State} {bytes : List Byte} (h : s.load bytes = some t) :
    perform (.load bytes) s = .next (t, .loaded true) := by
  simp only [perform, h]

/-- Settles O49: a program of at most 3584 bytes ends at or below the last byte of memory. -/
theorem loadPlacesTheProgram : Obligations.LoadPlacesTheProgram := by
  refine fun s bytes => ⟨fun hlong => ?_, fun hfits => ?_⟩
  · have hload : s.load bytes = none := if_pos hlong
    exact ⟨hload, perform_load_of_none hload⟩
  · have hload : s.load bytes = some (s.writeBytes programOrigin bytes) := if_neg (Nat.not_lt.mpr hfits)
    refine ⟨_, hload, perform_load_of_some hload, fun hwf k b hb => ?_,
      fun a ha => State.readByte_writeBytes_other s ha, onlyChanges_load hload⟩
    obtain ⟨hk, rfl⟩ := List.getElem?_eq_some_iff.mp hb
    exact State.readByte_writeBytes_same hwf (Nat.add_le_add_left hfits programOrigin) hk

end Sys2Proof.Machine

/-! Settles O52, O53 and O54. The status that absorbs every operation but Reset and Load, the wait that only a KeyDown or
Reset ends, and what the host gets back. -/

namespace Sys2Proof.Machine

open Sys2Proof.Safety

/-! ### In `Faulted` (R118) -/

theorem State.not_running_of_faulted {s : State} (hs : s.isFaulted = true) : s.status ≠ .running :=
  fun hrun => Bool.false_ne_true ((State.isFaulted_of_running hrun).symm.trans hs)

/-- In `Faulted` an operation other than Reset and Load leaves the state, and a Step answers its status. -/
theorem perform_of_faulted {op : HostOp} {s : State} (hs : s.isFaulted = true) (hreset : op ≠ .reset)
    (hload : ∀ bytes, op ≠ .load bytes) :
    ∃ o, perform op s = .next (s, o) ∧ (op = .step → o = .stepResult s.status) := by
  cases op with
  | step =>
    have hstep := step_of_not_running (State.not_running_of_faulted hs)
    exact ⟨_, perform_step_of_next hstep, fun _ => rfl⟩
  | tick => simp [perform, (State.tick_of_faulted hs).1]
  | keyDown k => simp [perform, State.keyDown_of_faulted hs]
  | keyUp k => simp [perform, State.keyUp_of_faulted hs]
  | drawAck => simp [perform, State.drawAck_of_faulted hs]
  | load bytes => exact absurd rfl (hload bytes)
  | reset => exact absurd rfl hreset
  | debugDump => simp [perform]

/-- Settles O52, by induction on the run. -/
theorem faultedIsAbsorbing : Obligations.FaultedIsAbsorbing := by
  intro ops s hs hops
  induction ops with
  | nil => exact ⟨[], rfl, by simp⟩
  | cons op ops ih =>
    obtain ⟨hop, hrest⟩ := List.forall_mem_cons.mp hops
    obtain ⟨o, hfirst, ho⟩ := perform_of_faulted hs hop.1 hop.2
    obtain ⟨os, hrun, hos⟩ := ih hrest
    refine ⟨o :: os, performAll_cons_of_next hfirst hrun, fun k hk => ?_⟩
    cases k with
    | zero => exact congrArg some (ho (Option.some.inj hk))
    | succ k => exact hos k hk

/-! ### In `WaitKey` (R129) -/

theorem onlyChanges_mono {P Q : List Part} {R : RegIx → Prop} {s t : State} (hPQ : P ⊆ Q)
    (h : OnlyChanges P R s t) : OnlyChanges Q R s t :=
  ⟨fun p hp => h.1 p (mt (@hPQ p) hp), h.2⟩

/-- While Fx0A waits, a KeyDown and Reset leave the wait, and every other operation has a frame without the status; only
a Load has memory in it. -/
theorem perform_of_waitKey {op : HostOp} {s t : State} {o : HostOutput} {x : RegIx} (hwait : s.status = .waitKey x)
    (h : perform op s = .next (t, o)) :
    (t.status = .running ∧ ((∃ k, op = .keyDown k) ∨ op = .reset)) ∨
    ∃ P ⊆ [Part.keys, .dt, .st, .drawFlag, .mem],
      OnlyChanges P noRegs s t ∧ ((∀ bytes, op ≠ .load bytes) → Part.mem ∉ P) := by
  obtain ⟨-, hs⟩ | ⟨-, rfl⟩ | ⟨k, rfl, rfl⟩ | ⟨k, -, rfl⟩ | ⟨-, rfl⟩ | ⟨bytes, rfl, hl⟩ | ⟨rfl, rfl⟩ | ⟨-, rfl⟩ :=
    perform_cases h
  · have hnot : s.status ≠ .running := by rw [hwait]; nofun
    cases (step_of_not_running hnot).symm.trans hs
    exact .inr ⟨[], by decide, onlyChanges_refl _ _ s, fun _ => by decide⟩
  · exact .inr ⟨_, by decide, onlyChanges_tick s, fun _ => by decide⟩
  · obtain ⟨-, -, hrun, -⟩ := keyDown_completes_wait hwait k
    exact .inl ⟨hrun, .inl ⟨k, rfl⟩⟩
  · exact .inr ⟨_, by decide, onlyChanges_keyUp s k, fun _ => by decide⟩
  · exact .inr ⟨_, by decide, onlyChanges_drawAck s, fun _ => by decide⟩
  · have hframe : OnlyChanges [.mem] noRegs s t := by
      obtain hl | ⟨-, rfl⟩ := hl
      · exact onlyChanges_load hl
      · exact onlyChanges_refl _ _ t
    exact .inr ⟨_, by decide, hframe, fun hno => absurd rfl (hno bytes)⟩
  · exact .inl ⟨rfl, .inr rfl⟩
  · exact .inr ⟨[], by decide, onlyChanges_refl _ _ t, fun _ => by decide⟩

/-- Settles O53: the status and what else the wait lets change are read off the frame. -/
theorem onlyKeyDownOrResetEndsTheWait : Obligations.OnlyKeyDownOrResetEndsTheWait := by
  intro op s t o x hwait h
  obtain hends | ⟨P, hP, hframe, hload⟩ := perform_of_waitKey hwait h
  · exact .inr hends
  · have hall := onlyChanges_mono hP hframe
    exact .inl ⟨(hall.1 .status (by decide)).trans hwait, hall, fun hno => hframe.1 .mem (hload hno)⟩

/-! ### What the host gets back (R127, R131, R138) -/

/-- Settles O54. -/
theorem hostGetsBackWhatItAskedFor : Obligations.HostGetsBackWhatItAskedFor := by
  intro s
  obtain ⟨t, ht⟩ := stepAlwaysAnswersNextState s
  refine ⟨⟨t, ht, perform_step_of_next ht⟩, ⟨_, rfl, ?_⟩, ⟨_, rfl, fun r => ?_, rfl, rfl, rfl, rfl⟩⟩
  · rw [State.tickBeeps_iff, ← BitVec.toNat_inj]
    rfl
  · exact Vector.getElem?_eq_getElem r.isLt

end Sys2Proof.Machine

/-! Settles O50 and O57. How a run begins and how it ends: the first fetch after Reset and Load, and the self-jump of a
run that has ended well. -/

namespace Sys2Proof.Machine

open Sys2Proof.Safety

/-! ### The first fetch (R44, R146) -/

/-- Settles O50: the Load leaves the status and pc of Reset, and the two bytes at pc are the program's first two. -/
theorem firstStepFetchesTheLoadedProgram : Obligations.FirstStepFetchesTheLoadedProgram := by
  intro p hi lo rest hfits
  obtain ⟨-, hload⟩ := loadPlacesTheProgram (State.resetWith p) (hi :: lo :: rest)
  obtain ⟨t, ht, -, hbytes, -, hframe, -⟩ := hload hfits
  have stored := hbytes (State.resetWith_memoryWf p)
  have hpc : t.pc = 0x200#16 := hframe .pc (by decide)
  have hpcNat : t.pc.toNat = 0x200 := by rw [hpc]; rfl
  refine ⟨t, ht, hframe .status (by decide), hpc, State.fetch_of_bytes ?_ ?_ ?_⟩ <;> rw [hpcNat]
  · decide
  · exact stored 0 hi rfl
  · exact stored 1 lo rfl

/-! ### The self-jump (R155) -/

@[simp] theorem State.latch_fetch (s : State) (w : Word) : (s.latch w).fetch = s.fetch := rfl

theorem onlyChanges_latch (s : State) (w : Word) : OnlyChanges [.opcode] noRegs s (s.latch w) := by
  simp [onlyChanges_iff]

/-- A jump whose target is its own address leaves the state. -/
theorem exec_jp_of_self {s : State} {nnn : Addr12} (h : addrOperand nnn = s.pc) : exec (.jp nnn) s = .next s := by
  have hjump : exec (.jp nnn) s = .next (s.jumpTo (addrOperand nnn)) := rfl
  rw [hjump, h]
  rfl

/-- What a Step fetches does not depend on the latch, so a run that has ended well still has. -/
theorem endsWell_latch {s : State} (h : EndsWell s) (w : Word) : EndsWell (s.latch w) := by
  obtain ⟨hs, nnn, hf, hself⟩ := h
  exact ⟨hs, nnn, (s.latch_fetch w).trans hf, hself⟩

/-- Settles O57: the Step latches the jump, and the jump leaves the latched state. -/
theorem selfJumpChangesOnlyTheLatch : Obligations.SelfJumpChangesOnlyTheLatch := by
  intro s hend
  have ⟨hs, nnn, hf, hself⟩ := hend
  have hstep := step_of_decoded hs hf (Laws.decode_encode (.jp nnn))
  exact ⟨_, hstep.trans (exec_jp_of_self hself), onlyChanges_latch s _, endsWell_latch hend _⟩

end Sys2Proof.Machine
